-- ==== Sys2Proof/Word.lean ====
section
/-! DEFINITION. The words of xBRz CORE: pixels, table indices and entries, blend types, host words. -/

namespace Sys2Proof

/-- A packed colour: alpha 31:24, red 23:16, green 15:8, blue 7:0 (30_encoding.md R90). -/
abbrev Pixel := BitVec 32

/-- The 24-bit RGB value of a pixel, the index of CSTAB (R90, R96). -/
abbrev Rgb := BitVec 24

/-- A CSTAB entry: Y 23:16, Cb 15:8, Cr 7:0 (R96). -/
abbrev Ycc := BitVec 24

/-- A ROTTAB entry: row 5:3, column 2:0 (R97). -/
abbrev RotEntry := BitVec 6

/-- One channel of a pixel or of a CSTAB entry. -/
abbrev Channel := BitVec 8

/-- A BlendInfo byte: BL 7:6, BR 5:4, TR 3:2, TL 1:0 (R93). -/
abbrev BlendInfo := BitVec 8

/-- A blend type: 0 None, 1 Normal, 2 Dominant, 3 reserved (R92). -/
abbrev BlendType := BitVec 2

/-- A rotation step: 0, 1, 2, 3 for 0, 90, 180, 270 degrees (R95). -/
abbrev Rot := BitVec 2

/-- A scale factor as register SCALE holds it (10_state.md R35). -/
abbrev Scale := BitVec 4

/-- A word of the host interface (10_state.md R33). -/
abbrev HostWord := BitVec 32

end Sys2Proof
end

