-- ==== Sys2Proof/Config.lean ====
section
/-! DEFINITION. What an implementation of the block fixes: the parameter record of 00_scope.md R6, its sizes first, and
the free values, which have no body so that nothing can be proved of what they are. The values this hardware takes are
`Sys2Proof.Config.sizes` here and `Sys2Proof.Machine.hw` in Machine/Tables.lean. -/

namespace Sys2Proof

/-- The parameters of the block that size its storage and bound its operands (00_scope.md R6). -/
structure Sizes where
  /-- MINSCALE, the smallest supported scale factor. -/
  minScale : Nat
  /-- MAXSCALE, the largest supported scale factor; it sizes ROTTAB and OBLK (10_state.md R29, R31). -/
  maxScale : Nat
  /-- DIMBITS, the width of WIDTH and HEIGHT. -/
  dimBits : Nat
  /-- CAPBITS, the width of DST_CAP and of a DST address. -/
  capBits : Nat
  deriving DecidableEq, Repr

end Sys2Proof

namespace Sys2Proof.Config

/-- The bits of a host register (10_state.md R33), so the most that DIMBITS and CAPBITS can be. The registers that
DIMBITS and CAPBITS size are held in as many bits (log 35). -/
abbrev wordBits : Nat := 32

/-- The largest MAXSCALE that the 3-bit row and column of a ROTTAB entry can serve (30_encoding.md R97). OBLK is held as
the block of this size, of which the MAXSCALE x MAXSCALE corner is the block's (log 35). -/
abbrev scaleLimit : Nat := 8

/-- The sub-cells OBLK is held in. -/
abbrev blockCells : Nat := scaleLimit * scaleLimit

/-- This hardware's sizes. DIMBITS and CAPBITS are OPEN in R6; these are its suggested values. DESIGN CHOICE (log 6),
unsafe: a block with other widths accepts other sizes. -/
def sizes : Sizes where
  minScale := 2
  maxScale := 6
  dimBits := 16
  capBits := 32

/-- What a CSTAB entry holds before CSTBUILD has filled the table (70_reset_and_hazards.md R331: unspecified).
DESIGN CHOICE (log 11), safe: a free value. -/
opaque freeCst : Rgb → Ycc

/-- What a ROTTAB entry holds that ROTBUILD has not written (R331, 20_memory.md R67: unspecified).
DESIGN CHOICE (log 11), safe: a free value. -/
opaque freeRot : Nat → RotEntry

/-- The pixel a DST element holds, or reads as, where the spec says any value (93_implementation_defined.md U3, U7,
U9): the number of the draw, then the index of the element. DESIGN CHOICE (log 17, 18, 19), safe: a free value. -/
opaque freePixel : Nat → Nat → Pixel

end Sys2Proof.Config

namespace Sys2Proof

/-- The five blend patterns (30_encoding.md R106). -/
inductive Pattern where
  | corner
  | diag
  | shallow
  | steep
  | both
  deriving DecidableEq, Repr

/-- The weight of a pattern entry: the fraction n/m of the reference colour, or COPY (R99). -/
inductive Weight where
  | copy
  | mix (n m : Nat)
  deriving DecidableEq, Repr

/-- One entry of a pattern list: a logical sub-cell (row, column) and its weight (R100). -/
structure Entry where
  row : Nat
  col : Nat
  weight : Weight
  deriving DecidableEq, Repr

/-- Sizes a block can have: ROTTAB's index takes N - 2 (20_memory.md R67), its entries hold a row and a column of 3 bits
(30_encoding.md R97), and a host register has 32 bits (10_state.md R33). DEDUCED (log 35). -/
def Sizes.legal (z : Sizes) : Bool :=
  decide (2 ≤ z.minScale ∧ z.minScale ≤ z.maxScale ∧ z.maxScale ≤ Config.scaleLimit ∧
    1 ≤ z.dimBits ∧ z.dimBits ≤ Config.wordBits ∧ 1 ≤ z.capBits ∧ z.capBits ≤ Config.wordBits)

/-- The parameters of the block (00_scope.md R6). They are no part of State (R13). -/
structure Params extends Sizes where
  /-- EQ_TOL2, the squared tolerance of EQ. -/
  eqTol2 : Nat
  /-- DOM_NUM/DOM_DEN, the dominant-direction threshold. -/
  domNum : Nat
  domDen : Nat
  /-- STEEP_NUM/STEEP_DEN, the steep and shallow threshold. -/
  steepNum : Nat
  steepDen : Nat
  /-- CENTER_WEIGHT, the weight of the central difference of a gradient sum. -/
  centerWeight : Nat
  /-- The contents CSTBUILD gives CSTAB. -/
  cstab : Rgb → Ycc
  /-- PATTAB: the list of each scale and pattern. -/
  pattab : Nat → Pattern → List Entry
  /-- MAXW, the depth of BROW. -/
  maxW : Nat
  /-- GATE_BR_ONLY: whether the blend gate tests only the bottom-right field. -/
  gateBrOnly : Bool

end Sys2Proof
end

