-- ==== Sys2Proof/Syntax.lean ====
section
/-! DEFINITION. The operations of the block, one constructor for each row of spec/opcode_table.json (00_scope.md R3,
30_encoding.md R107), and the form in which an operation is presented to it (R102). -/

namespace Sys2Proof

/-- A scan coordinate: one bit more than WIDTH and HEIGHT can have (10_state.md R24; log 35). -/
abbrev Coord := BitVec (Config.wordBits + 1)

/-- The names of the 3x3 kernel, row-major, `e` the centre (10_state.md R22). -/
inductive KName where
  | a | b | c | d | e | f | g | h | i
  deriving DecidableEq, Repr

/-- A neighbour offset of CLAMP, one of -1, 0, 1, 2 (46_driver.md R261). -/
inductive Offset where
  | neg1
  | zero
  | pos1
  | pos2
  deriving DecidableEq, Repr

/-- The six registers of the register file (10_state.md R33). -/
inductive HostReg where
  | cmd
  | scale
  | width
  | height
  | dstCap
  | status
  deriving DecidableEq, Repr

/-- The forms under the table's row rd_STATUS: a read of an existing register (`rd` of registers 0 to 5, R103, R34),
and the write of register 5, which is read-only. -/
inductive StatusForm where
  | read (reg : HostReg)
  | writeIgnored (value : HostWord)
  deriving DecidableEq, Repr

/-- The two directions of an access to a register that does not exist (10_state.md R33). -/
inductive AbsentForm where
  | read
  | write (value : HostWord)
  deriving DecidableEq, Repr

/-- The operations. One constructor for each row of the opcode table, in its order. -/
inductive Instr where
  /-- INIT_TABLES (46_driver.md R288). -/
  | initTables
  /-- SCALE_IMAGE (R290). -/
  | scaleImage
  /-- CMD.reserved: a CMD word whose code is neither 1 nor 2 (30_encoding.md R105). -/
  | cmdReserved (word : HostWord)
  /-- wr_SCALE (10_state.md R35). -/
  | wrScale (value : HostWord)
  /-- wr_WIDTH (R36). -/
  | wrWidth (value : HostWord)
  /-- wr_HEIGHT (R36). -/
  | wrHeight (value : HostWord)
  /-- wr_DST_CAP (R37). -/
  | wrDstCap (value : HostWord)
  /-- rd_STATUS (R38) and the forms its row adds. -/
  | rdStatus (form : StatusForm)
  /-- reg.nonexistent: register numbers 6 and above (R33). -/
  | regNonexistent (reg : HostWord) (form : AbsentForm)
  /-- PAT.CORNER (44_pixel_scaler.md R216). -/
  | patCorner
  /-- PAT.DIAG (R217). -/
  | patDiag
  /-- PAT.SHALLOW (R218). -/
  | patShallow
  /-- PAT.STEEP (R219). -/
  | patSteep
  /-- PAT.BOTH (R220). -/
  | patBoth
  /-- CSTBUILD (40_color_metric.md R121). -/
  | cstBuild
  /-- DIST (R124). -/
  | dist (p q : Pixel)
  /-- EQ (R125). -/
  | eqTol (p q : Pixel)
  /-- IDENT (R127). -/
  | ident (p q : Pixel)
  /-- ROTBUILD (41_rotation_geometry.md R141). -/
  | rotBuild
  /-- ROTOFF (R143). -/
  | rotOff (n : Scale) (r : Rot) (i j : BitVec 3)
  /-- KROT (R145). -/
  | kRot (r : Rot) (name : KName)
  /-- BROT (R147). -/
  | bRot (b : BlendInfo) (r : Rot)
  /-- CLASSIFY (42_corner_classifier.md R160). -/
  | classify
  /-- RELAY (43_blend_pipeline.md R181). -/
  | relay (bf bg bj bk : BlendType)
  /-- FILL (46_driver.md R266). -/
  | fill
  /-- K3LOAD (R270). -/
  | k3Load
  /-- SCALEPIX (44_pixel_scaler.md R200, R202). -/
  | scalePix (n : Scale) (r : Rot)
  /-- INTERP (R203); the weight in 7 + 7 bits (30_encoding.md R99). -/
  | interp (col dst : Pixel) (n m : BitVec 7)
  /-- OUTWR (46_driver.md R276). -/
  | outWr
  /-- CLAMP (R261). -/
  | clamp (x y : Coord) (dx dy : Offset)
  /-- K4LOAD (R264). -/
  | k4Load
  /-- COLSTEP (R280). -/
  | colStep
  /-- reset (70_reset_and_hazards.md R330). -/
  | reset
  deriving DecidableEq, Repr

/-- How an operation is presented to the block (30_encoding.md R102): a host register write or read (the formats CMDW
and REGW), a pattern select, or a place of the sequencer, which has no bits, so that the operation itself stands for
it. DESIGN CHOICE (log 3, 4, 31), safe: the last two are internal to the block, and the model lets them be issued
alone. -/
inductive Issue where
  | wr (reg value : HostWord)
  | rd (reg : HostWord)
  | patsel (sel : BitVec 3)
  | seq (op : Instr)
  deriving DecidableEq, Repr

/-- Why the decoder rejects an issue. -/
inductive Reject where
  /-- The operation named at a sequencer place is not one of format SEQ. -/
  | notSeq
  /-- The operation at a sequencer place has operands the spec does not admit (`Instr.wf`). -/
  | illFormed
  deriving DecidableEq, Repr

end Sys2Proof
end

