-- ==== Sys2Proof/Machine/State.lean ====
section
/-! DEFINITION. The state of the block and of what surrounds it, the reasons a step can stop, and reset. -/

namespace Sys2Proof.Machine

/-- The Kernel4x4 registers (10_state.md R20, R21). -/
structure Kernel4 where
  b : Pixel
  c : Pixel
  e : Pixel
  f : Pixel
  g : Pixel
  h : Pixel
  i : Pixel
  j : Pixel
  k : Pixel
  l : Pixel
  n : Pixel
  o : Pixel
  deriving DecidableEq, Repr

/-- The Kernel3x3 registers (10_state.md R20, R22). -/
structure Kernel3 where
  a : Pixel
  b : Pixel
  c : Pixel
  d : Pixel
  e : Pixel
  f : Pixel
  g : Pixel
  h : Pixel
  i : Pixel
  deriving DecidableEq, Repr

/-- The scan position (10_state.md R24). -/
structure Position where
  y : Coord
  x : Coord
  deriving DecidableEq, Repr

/-- An indexed memory: (index, element) pairs, indexes strictly rising, no element 0; an unlisted index reads 0
(`Memory.wf`; log 12, 23, 32). -/
abbrev Memory (w : Nat) := List (Nat × BitVec w)

/-- The blend-state registers (10_state.md R26 to R28). -/
structure Blend where
  bxy : BlendInfo
  brow : Memory 8
  carry : BlendInfo
  deriving DecidableEq, Repr

/-- The registers of OBLK, sub-cell (i, j) at 8i + j (10_state.md R29); those with i, j < MAXSCALE are the block's, the
others 0 for ever (`State.BlockSound`; log 35). -/
abbrev Block := Vector Pixel Config.blockCells

/-- What a table memory holds: what it held at reset, or what its build wrote (10_state.md R30, R31, log 24). -/
inductive TableMem where
  | unspecified
  | built
  deriving DecidableEq, Repr

/-- CSTAB and ROTTAB with their guards (10_state.md R30 to R32). -/
structure Tables where
  cst : TableMem
  rot : TableMem
  csValid : Bool
  rotValid : Bool
  deriving DecidableEq, Repr

/-- Registers 1 to 4 of the register file (10_state.md R33, R35 to R37). WIDTH and HEIGHT have DIMBITS bits and DST_CAP
has CAPBITS: the bits above are 0 (`State.RegsSound`; log 35). -/
structure Regs where
  scale : Scale
  width : HostWord
  height : HostWord
  dstCap : HostWord
  deriving DecidableEq, Repr

/-- The fields of STATUS that are not the guards (10_state.md R38). -/
structure Status where
  busy : Bool
  done : Bool
  err : BitVec 3
  deriving DecidableEq, Repr

/-- The operands of the running command, sampled at its acceptance (46_driver.md R290; log 15). -/
structure Running where
  n : Scale
  w : HostWord
  h : HostWord
  deriving DecidableEq, Repr

/-- The transient signals of 10_state.md R25 and the rotation step in progress, as last driven (log 21). -/
structure Signals where
  flat : Bool
  jg : BitVec 21
  fk : BitVec 21
  dom : Bool
  bf : BlendType
  bg : BlendType
  bj : BlendType
  bk : BlendType
  line : Bool
  shallow : Bool
  steep : Bool
  rot : Rot
  deriving DecidableEq, Repr

/-- The outputs of the combinational units, as last driven by one of their operations issued alone (log 20). -/
structure Ports where
  dist : BitVec 18
  eqTol : Bool
  ident : Bool
  rotOff : RotEntry
  kRot : Pixel
  bRot : BlendInfo
  interp : Pixel
  clampX : HostWord
  clampY : HostWord
  deriving DecidableEq, Repr

/-- One turn of the world around the block (30_encoding.md R108, 70_reset_and_hazards.md R330, R340; log 1, 2). -/
inductive Slot where
  /-- An operation is presented: a `wr` or `rd` of the host, or an internal selector (log 4). -/
  | issue (e : Issue)
  /-- `poll`: `rd STATUS` until BUSY = 0. -/
  | poll
  /-- `src[a] = p`: the host stores a source pixel. -/
  | srcStore (a : BitVec 32) (p : Pixel)
  /-- The host stores a pixel in its destination buffer. -/
  | dstStore (a : BitVec 32) (p : Pixel)
  /-- `dst[a]`: the host reads a destination pixel. -/
  | dstLoad (a : BitVec 32)
  /-- Reset or power-up, with the level tbl_ok keeps until the next reset (60_exceptions.md R308). -/
  | resetWithPin (tblOk : Bool)
  /-- The host does nothing: the engine has the turn. -/
  | engine
  deriving DecidableEq, Repr

/-- What surrounds the block: the environment input, the host's program, the word the host last read, and the model's
own bookkeeping of unspecified results (log 2, 14, 17, 20, 27). -/
structure Env where
  tblOk : Bool
  inbox : List Slot
  hostData : HostWord
  tainted : Bool
  draws : Nat
  deriving DecidableEq, Repr

/-- The state: 10_state.md R20 to R38, the memories SRC and DST of 20_memory.md R60, and what surrounds the block. -/
structure State where
  k4 : Kernel4
  k3 : Kernel3
  px : Pixel
  pos : Position
  blend : Blend
  oblk : Block
  tables : Tables
  regs : Regs
  status : Status
  run : Running
  sig : Signals
  ports : Ports
  src : Memory 32
  dst : Memory 32
  env : Env
  deriving DecidableEq, Repr

/-- The faults. There are none: the four errors of 60_exceptions.md R300 are next states (R304), and nothing else can
fault (R307, 93_implementation_defined.md part 1). Safe: a model without a stop hides no behaviour. -/
inductive Fault : Type
  deriving DecidableEq, Repr

/-- The refusals. -/
inductive Refusal where
  /-- `exec`: the operation has no meaning in the model yet. Safe: the model stops where the block goes on. -/
  | notModelled (mnemonic : String)
  /-- `step`: the issue at the head of the inbox is no well-formed operation of its format. Safe: no operation of the
  block is refused (log 26). -/
  | undecodable (why : Reject)
  deriving DecidableEq, Repr

/-- The errors of 60_exceptions.md R300. -/
inductive ErrorName where
  | invalidDimension
  | bufferTooSmall
  | unsupportedScale
  | tableInitFailure
  deriving DecidableEq, Repr

/-- Reset (70_reset_and_hazards.md R330, R331): idle, registers, guards and blend state 0, position (0, 0). K4, K3, PX
and OBLK, which R331 leaves unspecified, are 0: DESIGN CHOICE (log 10), unsafe. The table contents are unspecified.
SRC and DST list nothing, tbl_ok is 1, the signals, ports and the model's own fields are 0 or empty:
DESIGN CHOICE (log 12, 14, 15, 20, 21, 27). -/
def State.reset : State where
  k4 := ⟨0, 0, 0, 0, 0, 0, 0, 0, 0, 0, 0, 0⟩
  k3 := ⟨0, 0, 0, 0, 0, 0, 0, 0, 0⟩
  px := 0
  pos := ⟨0, 0⟩
  blend := ⟨0, [], 0⟩
  oblk := Vector.replicate Config.blockCells 0
  tables := ⟨.unspecified, .unspecified, false, false⟩
  regs := ⟨0, 0, 0, 0⟩
  status := ⟨false, false, 0⟩
  run := ⟨0, 0, 0⟩
  sig := ⟨false, 0, 0, false, 0, 0, 0, 0, false, false, false, 0⟩
  ports := ⟨0, false, false, 0, 0, 0, 0, 0, 0⟩
  src := []
  dst := []
  env := ⟨true, [], 0, false, 0⟩

end Sys2Proof.Machine
end

