-- ==== Sys2Proof/Machine/Operands.lean ====
section
/-! DEFINITION. The operand forms: the fields of pixels, table entries and BlendInfo bytes, the kernel grids, the
neighbour offsets, and the widths in which the host registers store a written value. -/

namespace Sys2Proof.Machine

/-! ### Pixels and table entries (30_encoding.md R90, R96, R97) -/

/-- Alpha, bits 31:24. -/
def alphaOf (p : Pixel) : Channel := p.extractLsb' 24 8

/-- Red, bits 23:16. -/
def redOf (p : Pixel) : Channel := p.extractLsb' 16 8

/-- Green, bits 15:8. -/
def greenOf (p : Pixel) : Channel := p.extractLsb' 8 8

/-- Blue, bits 7:0. -/
def blueOf (p : Pixel) : Channel := p.extractLsb' 0 8

/-- A pixel from its four channels. -/
def packPixel (a r g b : Channel) : Pixel := a ++ r ++ g ++ b

/-- The 24-bit RGB value, the index of CSTAB. -/
def rgbOf (p : Pixel) : Rgb := p.extractLsb' 0 24

/-- Y, bits 23:16 of a CSTAB entry. -/
def lumaOf (t : Ycc) : Channel := t.extractLsb' 16 8

/-- Cb, bits 15:8. -/
def chromaBlueOf (t : Ycc) : Channel := t.extractLsb' 8 8

/-- Cr, bits 7:0. -/
def chromaRedOf (t : Ycc) : Channel := t.extractLsb' 0 8

/-- A CSTAB entry from its three members. -/
def packYcc (y cb cr : Channel) : Ycc := y ++ cb ++ cr

/-- Row, bits 5:3 of a ROTTAB entry. -/
def rowOf (t : RotEntry) : BitVec 3 := t.extractLsb' 3 3

/-- Column, bits 2:0. -/
def colOf (t : RotEntry) : BitVec 3 := t.extractLsb' 0 3

/-- A ROTTAB entry from a row and a column. -/
def packRot (row col : Nat) : RotEntry := BitVec.ofNat 3 row ++ BitVec.ofNat 3 col

/-! ### BlendInfo fields (R93, R94) -/

/-- The top-left field, bits 1:0. -/
def tlOf (b : BlendInfo) : BlendType := b.extractLsb' 0 2

/-- The top-right field, bits 3:2. -/
def trOf (b : BlendInfo) : BlendType := b.extractLsb' 2 2

/-- The bottom-right field, bits 5:4. -/
def brOf (b : BlendInfo) : BlendType := b.extractLsb' 4 2

/-- The bottom-left field, bits 7:6. -/
def blOf (b : BlendInfo) : BlendType := b.extractLsb' 6 2

/-- A BlendInfo byte from its four fields, high to low. -/
def packBlend (bl br tr tl : BlendType) : BlendInfo := bl ++ br ++ tr ++ tl

/-- b with its top-left field replaced. -/
def setTl (b : BlendInfo) (t : BlendType) : BlendInfo := packBlend (blOf b) (brOf b) (trOf b) t

/-- b with its top-right field replaced. -/
def setTr (b : BlendInfo) (t : BlendType) : BlendInfo := packBlend (blOf b) (brOf b) t (tlOf b)

/-- b with its bottom-right field replaced. -/
def setBr (b : BlendInfo) (t : BlendType) : BlendInfo := packBlend (blOf b) t (trOf b) (tlOf b)

/-- b with its bottom-left field replaced. -/
def setBl (b : BlendInfo) (t : BlendType) : BlendInfo := packBlend t (brOf b) (trOf b) (tlOf b)

/-! ### The 3x3 grid and the neighbour offsets (10_state.md R22, 46_driver.md R261) -/

/-- The grid position (row, column) of a kernel name. -/
def kernelPos : KName → Nat × Nat
  | .a => (0, 0) | .b => (0, 1) | .c => (0, 2)
  | .d => (1, 0) | .e => (1, 1) | .f => (1, 2)
  | .g => (2, 0) | .h => (2, 1) | .i => (2, 2)

/-- The kernel name at a grid position. -/
def kernelName : Nat × Nat → KName
  | (0, 0) => .a | (0, 1) => .b | (0, _) => .c
  | (1, 0) => .d | (1, 1) => .e | (1, _) => .f
  | (_, 0) => .g | (_, 1) => .h | (_, _) => .i

/-- The K3 register of a name. -/
def Kernel3.reg (k : Kernel3) : KName → Pixel
  | .a => k.a | .b => k.b | .c => k.c
  | .d => k.d | .e => k.e | .f => k.f
  | .g => k.g | .h => k.h | .i => k.i

/-- The value of a neighbour offset. -/
def offsetInt : Offset → Int
  | .neg1 => -1
  | .zero => 0
  | .pos1 => 1
  | .pos2 => 2

/-! ### The widths of the host registers (10_state.md R35 to R37, 30_encoding.md R103) -/

/-- The bits SCALE stores of a written value: 3:0. -/
def scaleBits (v : HostWord) : Scale := v.setWidth 4

/-- The bits WIDTH and HEIGHT store: DIMBITS-1:0. -/
def dimensionBits (P : Params) (v : HostWord) : HostWord := (v.setWidth P.dimBits).setWidth Config.wordBits

/-- The bits DST_CAP stores: CAPBITS-1:0. -/
def capacityBits (P : Params) (v : HostWord) : HostWord := (v.setWidth P.capBits).setWidth Config.wordBits

end Sys2Proof.Machine
end

