-- ==== Sys2Proof/Machine/Tables.lean ====
section
/-! DEFINITION. The parameter values of this hardware (00_scope.md R6): the default contents of CSTAB and the pattern
tables. What the source does not confirm of them is named in log 7, 8 and 9. -/

namespace Sys2Proof.Machine

/-- The default contents of CSTAB (40_color_metric.md R122). Every numerator is non-negative (R122), so the natural
subtractions are exact. The chroma coefficients are the spec's own choice: PRESUMED (log 7), unsafe. -/
def defaultCstab (v : Rgb) : Ycc :=
  let r := (v.extractLsb' 16 8).toNat
  let g := (v.extractLsb' 8 8).toNat
  let b := (v.extractLsb' 0 8).toNat
  packYcc
    (BitVec.ofNat 8 ((299 * r + 587 * g + 114 * b) / 1000))
    (BitVec.ofNat 8 ((128000 + 500 * b - 169 * r - 331 * g) / 1000))
    (BitVec.ofNat 8 ((128000 + 500 * r - 419 * g - 81 * b) / 1000))

/-- An INTERP entry of a pattern list. -/
def mixed (row col n m : Nat) : Entry := ⟨row, col, .mix n m⟩

/-- A COPY entry. -/
def copied (row col : Nat) : Entry := ⟨row, col, .copy⟩

/-- PATTAB[2] (44_pixel_scaler.md R216 to R220). The offsets are the spec's, from general knowledge:
PRESUMED (log 8), unsafe. -/
def patterns2 : Pattern → List Entry
  | .corner => [mixed 1 1 21 100]
  | .diag => [mixed 1 1 1 2]
  | .shallow => [mixed 1 0 1 4, mixed 1 1 3 4]
  | .steep => [mixed 0 1 1 4, mixed 1 1 3 4]
  | .both => [mixed 1 0 1 4, mixed 0 1 1 4, mixed 1 1 5 6]

/-- Default PATTAB[3] (45_blend_tables_3_to_6.md R243). PRESUMED (log 9), unsafe. -/
def patterns3 : Pattern → List Entry
  | .corner => [mixed 2 2 45 100]
  | .diag => [mixed 1 2 1 8, mixed 2 1 1 8, mixed 2 2 7 8]
  | .shallow => [mixed 2 0 1 4, mixed 1 2 1 4, mixed 2 1 3 4, copied 2 2]
  | .steep => [mixed 0 2 1 4, mixed 2 1 1 4, mixed 1 2 3 4, copied 2 2]
  | .both => [mixed 2 0 1 4, mixed 0 2 1 4, mixed 2 1 3 4, mixed 1 2 3 4, copied 2 2]

/-- Default PATTAB[4] (R244). PRESUMED (log 9), unsafe. -/
def patterns4 : Pattern → List Entry
  | .corner => [mixed 3 3 68 100, mixed 3 2 9 100, mixed 2 3 9 100]
  | .diag => [mixed 3 2 1 2, mixed 2 3 1 2, copied 3 3]
  | .shallow => [mixed 3 0 1 4, mixed 2 2 1 4, mixed 3 1 3 4, mixed 2 3 3 4, copied 3 2, copied 3 3]
  | .steep => [mixed 0 3 1 4, mixed 2 2 1 4, mixed 1 3 3 4, mixed 3 2 3 4, copied 2 3, copied 3 3]
  | .both => [mixed 3 1 3 4, mixed 1 3 3 4, mixed 3 0 1 4, mixed 0 3 1 4, mixed 2 2 1 3,
      copied 3 3, copied 3 2, copied 2 3]

/-- Default PATTAB[5] (R245). PRESUMED (log 9), unsafe. -/
def patterns5 : Pattern → List Entry
  | .corner => [mixed 4 4 86 100, mixed 4 3 23 100, mixed 3 4 23 100]
  | .diag => [mixed 4 2 1 8, mixed 3 3 1 8, mixed 2 4 1 8, mixed 4 3 7 8, mixed 3 4 7 8, copied 4 4]
  | .shallow => [mixed 4 0 1 4, mixed 3 2 1 4, mixed 2 4 1 4, mixed 4 1 3 4, mixed 3 3 3 4,
      copied 4 2, copied 4 3, copied 4 4, copied 3 4]
  | .steep => [mixed 0 4 1 4, mixed 2 3 1 4, mixed 4 2 1 4, mixed 1 4 3 4, mixed 3 3 3 4,
      copied 2 4, copied 3 4, copied 4 4, copied 4 3]
  | .both => [mixed 0 4 1 4, mixed 2 3 1 4, mixed 1 4 3 4, mixed 4 0 1 4, mixed 3 2 1 4, mixed 4 1 3 4,
      mixed 3 3 2 3, copied 2 4, copied 3 4, copied 4 4, copied 4 2, copied 4 3]

/-- Default PATTAB[6] (R246). PRESUMED (log 9), unsafe. -/
def patterns6 : Pattern → List Entry
  | .corner => [mixed 5 5 97 100, mixed 4 5 42 100, mixed 5 4 42 100, mixed 5 3 6 100, mixed 3 5 6 100]
  | .diag => [mixed 5 3 1 2, mixed 4 4 1 2, mixed 3 5 1 2, copied 4 5, copied 5 5, copied 5 4]
  | .shallow => [mixed 5 0 1 4, mixed 4 2 1 4, mixed 3 4 1 4, mixed 5 1 3 4, mixed 4 3 3 4, mixed 3 5 3 4,
      copied 5 2, copied 5 3, copied 5 4, copied 5 5, copied 4 4, copied 4 5]
  | .steep => [mixed 0 5 1 4, mixed 2 4 1 4, mixed 4 3 1 4, mixed 1 5 3 4, mixed 3 4 3 4, mixed 5 3 3 4,
      copied 2 5, copied 3 5, copied 4 5, copied 5 5, copied 4 4, copied 5 4]
  | .both => [mixed 0 5 1 4, mixed 2 4 1 4, mixed 1 5 3 4, mixed 3 4 3 4, mixed 5 0 1 4, mixed 4 2 1 4,
      mixed 5 1 3 4, mixed 4 3 3 4, copied 2 5, copied 3 5, copied 4 5, copied 5 5, copied 4 4, copied 5 4,
      copied 5 2, copied 5 3]

/-- PATTAB: the tables of the supported scales; there is no table, so no entry, for another (log 22). -/
def defaultPattab : Nat → Pattern → List Entry
  | 2 => patterns2
  | 3 => patterns3
  | 4 => patterns4
  | 5 => patterns5
  | 6 => patterns6
  | _ => fun _ => []

/-- The parameter values of this hardware (R6, 93_implementation_defined.md U12). -/
def hw : Params where
  toSizes := Config.sizes
  eqTol2 := 900
  domNum := 18
  domDen := 5
  steepNum := 11
  steepDen := 5
  centerWeight := 4
  cstab := defaultCstab
  pattab := defaultPattab
  maxW := 4096
  gateBrOnly := false

/-- A legal entry of scale n (45_blend_tables_3_to_6.md R242 (b)). 30_encoding.md R99 and R100 also bound a weight by
m ≤ 100 and put COPY only in the tables for N ≥ 3; the check is R242's, without either bound. DESIGN CHOICE (log 36),
safe: every table that R99 and R100 allow is legal. -/
def entryLegal (n : Nat) (e : Entry) : Bool :=
  decide (e.row < n) && decide (e.col < n) &&
    match e.weight with
    | .copy => true
    | .mix num den => decide (0 < num) && decide (num < den)

/-- A legal list of scale n: legal entries, no sub-cell twice (R242 (b), (c)). -/
def listLegal (n : Nat) (l : List Entry) : Bool :=
  l.all (entryLegal n) && decide ((l.map fun e => (e.row, e.col)).Nodup)

/-- A legal PATTAB (R242 (a) to (c), R248): for every supported scale the five lists are legal. -/
def pattabLegal (P : Params) : Bool :=
  (List.range (P.maxScale + 1)).all fun n =>
    decide (n < P.minScale) ||
      [Pattern.corner, .diag, .shallow, .steep, .both].all fun p => listLegal n (P.pattab n p)

/-- Parameters a block can have (00_scope.md R6). -/
def legalParams (P : Params) : Bool := P.toSizes.legal && pattabLegal P

end Sys2Proof.Machine
end

