-- ==== Sys2Proof/Machine/Ops.lean ====
section
/-! DEFINITION. The named operations the meanings share: memory, OBLK, the tables, the rotation transform, and the two
halves of error reporting, `raise` and the clearing at the next acceptance. -/

namespace Sys2Proof.Machine

/-! ### Indexed memories (20_memory.md R60 to R64; the form is log 12, 23) -/

/-- The element at an index; an unlisted index reads 0 (log 12). -/
def Memory.read {w : Nat} : Memory w → Nat → BitVec w
  | [], _ => 0
  | (b, u) :: rest, a => if a = b then u else Memory.read rest a

/-- Stores an element, keeping the indexes rising and listing no 0. -/
def Memory.write {w : Nat} : Memory w → Nat → BitVec w → Memory w
  | [], a, v => if v = 0 then [] else [(a, v)]
  | (b, u) :: rest, a, v =>
    if a < b then (if v = 0 then (b, u) :: rest else (a, v) :: (b, u) :: rest)
    else if a = b then (if v = 0 then rest else (a, v) :: rest)
    else (b, u) :: Memory.write rest a v

/-- Stores 0 at every index below n. -/
def Memory.clearBelow {w : Nat} (m : Memory w) (n : Nat) : Memory w := m.filter fun c => decide (n ≤ c.1)

/-- Stores f a at every index a below n. -/
def Memory.fillBelow {w : Nat} (m : Memory w) (n : Nat) (f : Nat → BitVec w) : Memory w :=
  (List.range n).foldl (fun m a => m.write a (f a)) m

/-- Whether every listed index is at least lo, the indexes rise, and no listed element is 0. -/
def Memory.wfFrom {w : Nat} : Nat → Memory w → Bool
  | _, [] => true
  | lo, (a, v) :: rest => decide (lo ≤ a) && v != 0 && Memory.wfFrom (a + 1) rest

/-- The canonical form: equal memories are equal lists. -/
def Memory.wf {w : Nat} (m : Memory w) : Bool := Memory.wfFrom 0 m

/-! ### OBLK (10_state.md R29) -/

/-- The number of the register of sub-cell (i, j). -/
def cellIndex (i j : Nat) : Nat := i * Config.scaleLimit + j

/-- OBLK[i][j]. -/
def Block.cell (b : Block) (i j : Nat) : Pixel := b.getD (cellIndex i j) 0

/-- OBLK[i][j] <- v. -/
def Block.put (b : Block) (i j : Nat) (v : Pixel) : Block := b.setIfInBounds (cellIndex i j) v

/-- The sub-cells of an n x n block, row-major. -/
def subcells (n : Nat) : List (Nat × Nat) :=
  (List.range n).flatMap fun i => (List.range n).map fun j => (i, j)

/-! ### The rotation transform (41_rotation_geometry.md R140) and ROTTAB (20_memory.md R67) -/

/-- One quarter turn of the n x n grid. -/
def rot1 (n : Nat) (p : Nat × Nat) : Nat × Nat := (n - 1 - p.2, p.1)

/-- r quarter turns. -/
def rotN (n : Nat) : Nat → Nat × Nat → Nat × Nat
  | 0, p => p
  | r + 1, p => rot1 n (rotN n r p)

/-- The index of a ROTTAB entry (R67). -/
def rotIndex (P : Params) (n r i j : Nat) : Nat :=
  ((n - 2) * 4 + r) * (P.maxScale * P.maxScale) + i * P.maxScale + j

/-- The contents of ROTTAB after ROTBUILD (R141): the entry with index ((N-2)*4 + r)*MAXSCALE^2 + i*MAXSCALE + j holds
rot_N(r, i, j) for MINSCALE ≤ N ≤ MAXSCALE and i, j < N; the entries ROTBUILD does not write hold what they held. -/
def builtRot (P : Params) (index : Nat) : RotEntry :=
  let m := P.maxScale
  let n := index / (m * m) / 4 + 2
  let r := index / (m * m) % 4
  let i := index / m % m
  let j := index % m
  if P.minScale ≤ n ∧ n ≤ m ∧ i < n ∧ j < n then
    packRot (rotN n r (i, j)).1 (rotN n r (i, j)).2
  else Config.freeRot index

/-- ROTTAB[index]. -/
def rotRead (P : Params) (s : State) (index : Nat) : RotEntry :=
  match s.tables.rot with
  | .unspecified => Config.freeRot index
  | .built => builtRot P index

/-- CSTAB[v]. -/
def cstRead (P : Params) (s : State) (v : Rgb) : Ycc :=
  match s.tables.cst with
  | .unspecified => Config.freeCst v
  | .built => P.cstab v

/-! ### Error reporting (60_exceptions.md R304, R306, R309; 30_encoding.md R98) -/

/-- The code of an error. -/
def errorCode : ErrorName → BitVec 3
  | .invalidDimension => 1
  | .bufferTooSmall => 2
  | .unsupportedScale => 3
  | .tableInitFailure => 4

/-- `raise E` (R304): the code is recorded, DONE and BUSY are 0, the command ends, nothing else changes. -/
def raise (e : ErrorName) (s : State) : State :=
  { s with status := { busy := false, done := false, err := errorCode e } }

/-- Whether the block is dead: TableInitFailure is sticky until reset (R309). -/
def fatal (s : State) : Bool := s.status.err == 4#3

/-- The acceptance of a command (46_driver.md R288, R290): BUSY is 1, DONE is 0, ERR is cleared unless it is 4. It is
the only return from an error there is (R306). -/
def acceptCommand (s : State) : State :=
  { s with status := { busy := true, done := false, err := if fatal s then 4#3 else 0#3 } }

/-- The end of a command without an error and without an image (R288, R309). -/
def endCommand (s : State) : State :=
  { s with status := { s.status with busy := false } }

/-! ### Free values (log 27) -/

/-- The next free pixel for an element. -/
def drawPixel (s : State) (a : Nat) : Pixel := Config.freePixel s.env.draws a

/-- The state after the draw. -/
def drawn (s : State) : State := { s with env := { s.env with draws := s.env.draws + 1 } }

end Sys2Proof.Machine
end

