-- ==== Sys2Proof/Machine/Color.lean ====
section
/-! DEFINITION. Color-distance LUT and comparator: CSTBUILD, DIST, EQ, IDENT (40_color_metric.md). -/

namespace Sys2Proof.Machine

/-- The square of the difference of two channels, a signed intermediate (R124, R129). -/
def sqDiff (a b : Channel) : Nat :=
  let d : Int := (a.toNat : Int) - (b.toNat : Int)
  (d * d).toNat

/-- DIST over the table contents T (R124). -/
def distance (T : Rgb → Ycc) (p q : Pixel) : Nat :=
  if p = q then 0
  else
    let s := T (rgbOf p)
    let t := T (rgbOf q)
    sqDiff (lumaOf s) (lumaOf t) + sqDiff (chromaBlueOf s) (chromaBlueOf t) + sqDiff (chromaRedOf s) (chromaRedOf t)

/-- EQ over the table contents T (R125); the comparison is strict. -/
def colorEqual (P : Params) (T : Rgb → Ycc) (p q : Pixel) : Bool :=
  p == q || decide (distance T p q < P.eqTol2)

/-- IDENT: identity of all 32 bits (R127). -/
def identical (p q : Pixel) : Bool := p == q

/-- CSTBUILD (R121): nothing when the table is valid; TableInitFailure when tbl_ok is 0; else every entry is written
and the table is published. -/
def cstBuildOp (s : State) : State :=
  if s.tables.csValid then s
  else if s.env.tblOk then { s with tables := { s.tables with cst := .built, csValid := true } }
  else raise .tableInitFailure s

/-- CSTBUILD issued alone. -/
def execCstBuild (s : State) : Host.Outcome State Fault Refusal := .next (cstBuildOp s)

/-- DIST issued alone: the distance appears at the unit's 18-bit output. -/
def distOp (P : Params) (p q : Pixel) (s : State) : State :=
  { s with ports := { s.ports with dist := BitVec.ofNat 18 (distance (cstRead P s) p q) } }

/-- EQ issued alone. -/
def eqTolOp (P : Params) (p q : Pixel) (s : State) : State :=
  { s with ports := { s.ports with eqTol := colorEqual P (cstRead P s) p q } }

/-- DIST. -/
def execDist (p q : Pixel) (s : State) : Host.Outcome State Fault Refusal := .next (distOp hw p q s)

/-- EQ. -/
def execEqTol (p q : Pixel) (s : State) : Host.Outcome State Fault Refusal := .next (eqTolOp hw p q s)

/-- IDENT issued alone. -/
def execIdent (p q : Pixel) (s : State) : Host.Outcome State Fault Refusal :=
  .next { s with ports := { s.ports with ident := identical p q } }

end Sys2Proof.Machine
end

