-- ==== Sys2Proof/Machine/Rotation.lean ====
section
/-! DEFINITION. Rotation-indexed geometry LUT: ROTBUILD, ROTOFF, KROT, BROT (41_rotation_geometry.md). -/

namespace Sys2Proof.Machine

/-- ROTBUILD (R141): nothing when the table is valid; else the table is written and published. -/
def rotBuildOp (s : State) : State :=
  if s.tables.rotValid then s
  else { s with tables := { s.tables with rot := .built, rotValid := true } }

/-- ROTOFF (R143): the entry read. -/
def rotEntry (P : Params) (s : State) (n r i j : Nat) : RotEntry := rotRead P s (rotIndex P n r i j)

/-- ROTOFF (R143): the physical (row, column) of logical sub-cell (i, j). -/
def rotOffset (P : Params) (s : State) (n r i j : Nat) : Nat × Nat :=
  ((rowOf (rotEntry P s n r i j)).toNat, (colOf (rotEntry P s n r i j)).toNat)

/-- KROT (R145): the K3 register at the rotated grid position of the name. -/
def kernelRead (k : Kernel3) (r : Rot) (name : KName) : Pixel :=
  k.reg (kernelName (rotN 3 r.toNat (kernelPos name)))

/-- The logical kernel of a rotation step: every name read through KROT (44_pixel_scaler.md R201). -/
def logicalKernel (k : Kernel3) (r : Rot) : Kernel3 where
  a := kernelRead k r .a
  b := kernelRead k r .b
  c := kernelRead k r .c
  d := kernelRead k r .d
  e := kernelRead k r .e
  f := kernelRead k r .f
  g := kernelRead k r .g
  h := kernelRead k r .h
  i := kernelRead k r .i

/-- BROT (R147): the byte rotated left by 2r bits. -/
def rotateBlend (b : BlendInfo) (r : Rot) : BlendInfo :=
  (b <<< (2 * r.toNat)) ||| (b >>> (8 - 2 * r.toNat))

/-- ROTBUILD issued alone. -/
def execRotBuild (s : State) : Host.Outcome State Fault Refusal := .next (rotBuildOp s)

/-- ROTOFF issued alone: the entry appears at the unit's output. -/
def rotOffOp (P : Params) (n : Scale) (r : Rot) (i j : BitVec 3) (s : State) : State :=
  { s with ports := { s.ports with rotOff := rotEntry P s n.toNat r.toNat i.toNat j.toNat } }

/-- ROTOFF. -/
def execRotOff (n : Scale) (r : Rot) (i j : BitVec 3) (s : State) : Host.Outcome State Fault Refusal :=
  .next (rotOffOp hw n r i j s)

/-- KROT issued alone. -/
def execKRot (r : Rot) (name : KName) (s : State) : Host.Outcome State Fault Refusal :=
  .next { s with ports := { s.ports with kRot := kernelRead s.k3 r name } }

/-- BROT issued alone. -/
def execBRot (b : BlendInfo) (r : Rot) (s : State) : Host.Outcome State Fault Refusal :=
  .next { s with ports := { s.ports with bRot := rotateBlend b r } }

end Sys2Proof.Machine
end

