-- ==== Sys2Proof/Machine/Flags.lean ====
section
/-! DEFINITION. Every predicate and status computation: the decision flags of 10_state.md R25, the blend gate, the
precondition checks and the STATUS word. -/

namespace Sys2Proof.Machine

/-! ### CLASSIFY (42_corner_classifier.md R160 to R166) -/

/-- Step 1, the flat test, on identity (R161). -/
def flatKernel (k : Kernel4) : Bool :=
  (identical k.f k.g && identical k.j k.k) || (identical k.f k.j && identical k.g k.k)

/-- The gradient sum jg (R162). -/
def gradientJg (P : Params) (T : Rgb → Ycc) (k : Kernel4) : Nat :=
  distance T k.i k.f + distance T k.f k.c + distance T k.n k.k + distance T k.k k.h
    + P.centerWeight * distance T k.j k.g

/-- The gradient sum fk (R162). -/
def gradientFk (P : Params) (T : Rgb → Ycc) (k : Kernel4) : Nat :=
  distance T k.e k.j + distance T k.j k.o + distance T k.b k.g + distance T k.g k.l
    + P.centerWeight * distance T k.f k.k

/-- The dominant-gradient flag of the smaller sum against the larger (R163, R166): 3.6 low < high in integers. -/
def dominant (P : Params) (low high : Nat) : Bool := decide (P.domNum * low < P.domDen * high)

/-- The blend type the flag stands for. -/
def strength (dom : Bool) : BlendType := if dom then 2#2 else 1#2

/-! ### SCALEPIX (44_pixel_scaler.md R207 to R211) -/

/-- Step 2, doLineBlend, over a logical kernel and the rotated byte (R207, R208). -/
def lineBlend (P : Params) (T : Rgb → Ycc) (b : BlendInfo) (k : Kernel3) : Bool :=
  if 2 ≤ (brOf b).toNat then true
  else if trOf b != 0#2 && !colorEqual P T k.e k.g then false
  else if blOf b != 0#2 && !colorEqual P T k.e k.c then false
  else if colorEqual P T k.g k.h && colorEqual P T k.h k.i && colorEqual P T k.i k.f && colorEqual P T k.f k.c
      && !colorEqual P T k.e k.i then false
  else true

/-- Step 3, the reference colour (R209). -/
def referenceColor (T : Rgb → Ycc) (k : Kernel3) : Pixel :=
  if distance T k.e k.f ≤ distance T k.e k.h then k.f else k.h

/-- Step 5, shallow (R211). -/
def shallowLine (P : Params) (T : Rgb → Ycc) (k : Kernel3) : Bool :=
  decide (P.steepNum * distance T k.f k.g ≤ P.steepDen * distance T k.h k.c)
    && !identical k.e k.g && !identical k.d k.g

/-- Step 5, steep (R211). -/
def steepLine (P : Params) (T : Rgb → Ycc) (k : Kernel3) : Bool :=
  decide (P.steepNum * distance T k.h k.c ≤ P.steepDen * distance T k.f k.g)
    && !identical k.e k.c && !identical k.b k.c

/-- PATSEL = (line, shallow, steep) (30_encoding.md R106). -/
def patSel (line shallow steep : Bool) : BitVec 3 :=
  BitVec.ofBool line ++ BitVec.ofBool shallow ++ BitVec.ofBool steep

/-! ### The sequencer (46_driver.md R272, R290) and STATUS (10_state.md R38) -/

/-- The blend gate (R272). -/
def blendGate (P : Params) (bxy : BlendInfo) : Bool :=
  if P.gateBrOnly then brOf bxy != 0#2 else bxy != 0#8

/-- The first precondition of SCALE_IMAGE that fails, in the order of 60_exceptions.md R305 (R301, R302, R303). -/
def precondition (P : Params) (r : Regs) : Option ErrorName :=
  let n := r.scale.toNat
  let w := r.width.toNat
  let h := r.height.toNat
  if w < 1 ∨ h < 1 ∨ P.maxW < w then some .invalidDimension
  else if n < P.minScale ∨ P.maxScale < n then some .unsupportedScale
  else if r.dstCap.toNat < w * n * h * n then some .bufferTooSmall
  else none

/-- The STATUS word (R38). -/
def statusWord (s : State) : HostWord :=
  0#25 ++ s.status.err ++ BitVec.ofBool s.tables.rotValid ++ BitVec.ofBool s.tables.csValid
    ++ BitVec.ofBool s.status.done ++ BitVec.ofBool s.status.busy

end Sys2Proof.Machine
end

