-- ==== Sys2Proof/Machine/Corner.lean ====
section
/-! DEFINITION. Corner-classification engine: CLASSIFY (42_corner_classifier.md). -/

namespace Sys2Proof.Machine

/-- The four blend types of one junction (R160). -/
structure Corners where
  f : BlendType
  g : BlendType
  j : BlendType
  k : BlendType
  deriving DecidableEq, Repr

/-- The results of CLASSIFY (R160, R161 to R166). -/
def corners (P : Params) (T : Rgb → Ycc) (k : Kernel4) : Corners :=
  let jg := gradientJg P T k
  let fk := gradientFk P T k
  if flatKernel k then ⟨0, 0, 0, 0⟩
  else if jg < fk then
    let t := strength (dominant P jg fk)
    { f := if !identical k.f k.g && !identical k.f k.j then t else 0
      g := 0
      j := 0
      k := if !identical k.k k.j && !identical k.k k.g then t else 0 }
  else if fk < jg then
    let t := strength (dominant P fk jg)
    { f := 0
      g := if !identical k.g k.f && !identical k.g k.k then t else 0
      j := if !identical k.j k.f && !identical k.j k.k then t else 0
      k := 0 }
  else ⟨0, 0, 0, 0⟩

/-- CLASSIFY drives the transient signals of 10_state.md R25; a step that is not reached drives nothing (log 21). -/
def classifyOp (P : Params) (s : State) : State :=
  let T := cstRead P s
  let jg := gradientJg P T s.k4
  let fk := gradientFk P T s.k4
  let flat := flatKernel s.k4
  let c := corners P T s.k4
  { s with sig := { s.sig with
      flat := flat
      jg := if flat then s.sig.jg else BitVec.ofNat 21 jg
      fk := if flat then s.sig.fk else BitVec.ofNat 21 fk
      dom := if flat then s.sig.dom
        else if jg < fk then dominant P jg fk
        else if fk < jg then dominant P fk jg
        else s.sig.dom
      bf := c.f
      bg := c.g
      bj := c.j
      bk := c.k } }

/-- CLASSIFY. -/
def execClassify (s : State) : Host.Outcome State Fault Refusal := .next (classifyOp hw s)

end Sys2Proof.Machine
end

