-- ==== Sys2Proof/Machine/Relay.lean ====
section
/-! DEFINITION. Blend-state shift register, the row-buffered pipeline: RELAY (43_blend_pipeline.md). -/

namespace Sys2Proof.Machine

/-- RELAY, its four sub-steps in the order f, j-merge, g-ahead, k-seed (R181 to R185). The width is the running
command's (46_driver.md R290). -/
def relayOp (bf bg bj bk : BlendType) (s : State) : State :=
  let x := s.pos.x.toNat
  let bxy := setBr (s.blend.brow.read x) bf
  let merged := setTr s.blend.carry bj
  let flushed := s.blend.brow.write x merged
  let ahead := if x + 1 < s.run.w.toNat then flushed.write (x + 1) (setBl (flushed.read (x + 1)) bg) else flushed
  { s with blend := { bxy := bxy, brow := ahead, carry := setTl 0#8 bk } }

/-- RELAY. -/
def execRelay (bf bg bj bk : BlendType) (s : State) : Host.Outcome State Fault Refusal :=
  .next (relayOp bf bg bj bk s)

end Sys2Proof.Machine
end

