-- ==== Sys2Proof/WellFormed.lean ====
section
/-! DEFINITION. The operand checks of the operations: what the spec requires of an operation's fields. -/

namespace Sys2Proof

/-- A blend type that some rule produces: None, Normal or Dominant (30_encoding.md R92). -/
def legalType (t : BlendType) : Bool := t != 3#2

/-- A scale factor of the supported set, MINSCALE to MAXSCALE (60_exceptions.md R302). -/
def Sizes.supports (z : Sizes) (n : Scale) : Bool := decide (z.minScale ≤ n.toNat ∧ n.toNat ≤ z.maxScale)

/-- A scale factor this hardware supports. -/
abbrev legalScale (n : Scale) : Bool := Config.sizes.supports n

/-- A coordinate of DIMBITS + 1 bits (10_state.md R24). -/
def Sizes.fitsCoord (z : Sizes) (x : Coord) : Bool := decide (x.toNat < 2 ^ (z.dimBits + 1))

/-- The operand check of each operation on a block with sizes z. -/
def Instr.wfFor (z : Sizes) : Instr → Bool
  | .cmdReserved word => word.extractLsb' 0 4 != 1#4 && word.extractLsb' 0 4 != 2#4
  | .regNonexistent reg _ => decide (6 ≤ reg.toNat)
  | .rotOff n _ i j => z.supports n && decide (i.toNat < n.toNat ∧ j.toNat < n.toNat)
  | .relay bf bg bj bk => legalType bf && legalType bg && legalType bj && legalType bk
  | .scalePix n _ => z.supports n
  | .interp _ _ n m => decide (0 < n.toNat ∧ n.toNat < m.toNat ∧ m.toNat ≤ 100)
  | .initTables | .scaleImage | .wrScale _ | .wrWidth _ | .wrHeight _ | .wrDstCap _ | .rdStatus _ => true
  | .patCorner | .patDiag | .patShallow | .patSteep | .patBoth => true
  | .cstBuild | .dist _ _ | .eqTol _ _ | .ident _ _ | .rotBuild | .kRot _ _ | .bRot _ _ | .classify => true
  | .clamp x y _ _ => z.fitsCoord x && z.fitsCoord y
  | .fill | .k3Load | .outWr | .k4Load | .colStep | .reset => true

/-- The operand check on this hardware. -/
def Instr.wf (i : Instr) : Bool := i.wfFor Config.sizes

/-- The four formats of 30_encoding.md R102. -/
inductive Format where
  | cmdw
  | regw
  | patsel
  | seq
  deriving DecidableEq, Repr

/-- The format of each operation (R102, R107 and the table's column). -/
def Instr.format : Instr → Format
  | .initTables | .scaleImage | .cmdReserved _ => .cmdw
  | .wrScale _ | .wrWidth _ | .wrHeight _ | .wrDstCap _ | .rdStatus _ | .regNonexistent _ _ => .regw
  | .patCorner | .patDiag | .patShallow | .patSteep | .patBoth => .patsel
  | .cstBuild | .dist _ _ | .eqTol _ _ | .ident _ _ | .rotBuild | .rotOff _ _ _ _ | .kRot _ _ | .bRot _ _ => .seq
  | .classify | .relay _ _ _ _ | .fill | .k3Load | .scalePix _ _ | .interp _ _ _ _ | .outWr => .seq
  | .clamp _ _ _ _ | .k4Load | .colStep | .reset => .seq

end Sys2Proof
end

