-- ==== Sys2Proof/Decode.lean ====
section
/-! DEFINITION. Reading an issue as an operation, and the encoder. The block fetches no instructions (00_scope.md R2):
what is decoded is a host register access (CMDW, REGW), the 3-bit pattern select, or a sequencer place
(30_encoding.md R102 to R106). -/

namespace Sys2Proof

/-- A CMD word: the code in bits 3:0, bits 31:4 ignored (10_state.md R34, 30_encoding.md R104, R105). -/
def decodeCmd (word : HostWord) : Instr :=
  if word.extractLsb' 0 4 = 1#4 then .initTables
  else if word.extractLsb' 0 4 = 2#4 then .scaleImage
  else .cmdReserved word

/-- A host register write (R103; registers 5 and above: 10_state.md R33). -/
def decodeWr (reg value : HostWord) : Instr :=
  if reg = 0#32 then decodeCmd value
  else if reg = 1#32 then .wrScale value
  else if reg = 2#32 then .wrWidth value
  else if reg = 3#32 then .wrHeight value
  else if reg = 4#32 then .wrDstCap value
  else if reg = 5#32 then .rdStatus (.writeIgnored value)
  else .regNonexistent reg (.write value)

/-- A host register read (R103, R34, R33). -/
def decodeRd (reg : HostWord) : Instr :=
  if reg = 0#32 then .rdStatus (.read .cmd)
  else if reg = 1#32 then .rdStatus (.read .scale)
  else if reg = 2#32 then .rdStatus (.read .width)
  else if reg = 3#32 then .rdStatus (.read .height)
  else if reg = 4#32 then .rdStatus (.read .dstCap)
  else if reg = 5#32 then .rdStatus (.read .status)
  else .regNonexistent reg .read

/-- PATSEL = (line, shallow, steep): eight codes, five patterns (R106). -/
def patternOfSel (sel : BitVec 3) : Pattern :=
  if sel.getLsbD 2 then
    if sel.getLsbD 1 then (if sel.getLsbD 0 then .both else .shallow)
    else (if sel.getLsbD 0 then .steep else .diag)
  else .corner

/-- The operation that applies a pattern. -/
def patternInstr : Pattern → Instr
  | .corner => .patCorner
  | .diag => .patDiag
  | .shallow => .patShallow
  | .steep => .patSteep
  | .both => .patBoth

/-- The decoder of a block with sizes z: total, a rejection has a name. -/
def decodeFor (z : Sizes) : Issue → Except Reject Instr
  | .wr reg value => .ok (decodeWr reg value)
  | .rd reg => .ok (decodeRd reg)
  | .patsel sel => .ok (patternInstr (patternOfSel sel))
  | .seq op =>
    if op.format ≠ .seq then .error .notSeq
    else if op.wfFor z then .ok op
    else .error .illFormed

/-- This hardware's decoder. -/
def decode (e : Issue) : Except Reject Instr := decodeFor Config.sizes e

/-- The number of each register (10_state.md R33). -/
def regNumber : HostReg → HostWord
  | .cmd => 0#32
  | .scale => 1#32
  | .width => 2#32
  | .height => 3#32
  | .dstCap => 4#32
  | .status => 5#32

/-- The encoder, from the same tables: R103, R104, R106, 10_state.md R33. Ignored bits are written as 0. -/
def encode : Instr → Issue
  | .initTables => .wr 0#32 0x00000001#32
  | .scaleImage => .wr 0#32 0x00000002#32
  | .cmdReserved word => .wr 0#32 word
  | .wrScale value => .wr 1#32 value
  | .wrWidth value => .wr 2#32 value
  | .wrHeight value => .wr 3#32 value
  | .wrDstCap value => .wr 4#32 value
  | .rdStatus (.read reg) => .rd (regNumber reg)
  | .rdStatus (.writeIgnored value) => .wr 5#32 value
  | .regNonexistent reg .read => .rd reg
  | .regNonexistent reg (.write value) => .wr reg value
  | .patCorner => .patsel 0b000#3
  | .patDiag => .patsel 0b100#3
  | .patShallow => .patsel 0b110#3
  | .patSteep => .patsel 0b101#3
  | .patBoth => .patsel 0b111#3
  | .cstBuild => .seq .cstBuild
  | .dist p q => .seq (.dist p q)
  | .eqTol p q => .seq (.eqTol p q)
  | .ident p q => .seq (.ident p q)
  | .rotBuild => .seq .rotBuild
  | .rotOff n r i j => .seq (.rotOff n r i j)
  | .kRot r name => .seq (.kRot r name)
  | .bRot b r => .seq (.bRot b r)
  | .classify => .seq .classify
  | .relay bf bg bj bk => .seq (.relay bf bg bj bk)
  | .fill => .seq .fill
  | .k3Load => .seq .k3Load
  | .scalePix n r => .seq (.scalePix n r)
  | .interp col dst n m => .seq (.interp col dst n m)
  | .outWr => .seq .outWr
  | .clamp x y dx dy => .seq (.clamp x y dx dy)
  | .k4Load => .seq .k4Load
  | .colStep => .seq .colStep
  | .reset => .seq .reset

/-- The issue that `nbits` bits of value `w` stand for, numbered as spec/opcode_table.json numbers a row's bits. The
table numbers each format from bit 0 on its own and gives a row no mark of its format, so the format is told by the
length: no bits, no issue (SEQ); up to 8 bits, a command code or a pattern select; more, a register number with the
value word above it (REGW). Where the short readings meet, the one that occurs is taken: codes 1 and 2 are commands
(PATSEL 001 and 010 cannot occur, R105), 000 and 100 to 111 are pattern selects (those codes are reserved, R105), any
other byte is a reserved code. Register 5 is read-only, so its row is the read. DESIGN CHOICE (log 3), safe. -/
def tableIssue (nbits w : Nat) : Option Issue :=
  if nbits = 0 then none
  else if nbits ≤ 8 then
    if w = 0 then some (.patsel 0b000#3)
    else if 4 ≤ w ∧ w ≤ 7 then some (.patsel (BitVec.ofNat 3 w))
    else some (.wr 0#32 (BitVec.ofNat 32 w))
  else if BitVec.ofNat 32 w = 5#32 then some (.rd 5#32)
  else some (.wr (BitVec.ofNat 32 w) (BitVec.ofNat 32 (w / 2 ^ 32)))

/-- The operation the decoder reads from a row's bits as the table numbers them (log 3). -/
def decodeTableWord (nbits w : Nat) : Option Instr :=
  match tableIssue nbits w with
  | none => none
  | some e =>
    match decode e with
    | .ok i => some i
    | .error _ => none

end Sys2Proof
end

