-- ==== Sys2Proof/Machine/Scaler.lean ====
section
/-! DEFINITION. Per-scale pixel-blender: INTERP, SCALEPIX and the five patterns (44_pixel_scaler.md,
45_blend_tables_3_to_6.md). -/

namespace Sys2Proof.Machine

/-- One channel of INTERP: the weighted average, rounded down (R203). -/
def mixChannel (col dst : Channel) (n m : Nat) : Channel :=
  BitVec.ofNat 8 ((col.toNat * n + dst.toNat * (m - n)) / m)

/-- INTERP: col mixed over dst with opacity n/m, alpha 0 (R203). -/
def mixPixel (col dst : Pixel) (n m : Nat) : Pixel :=
  packPixel 0#8 (mixChannel (redOf col) (redOf dst) n m) (mixChannel (greenOf col) (greenOf dst) n m)
    (mixChannel (blueOf col) (blueOf dst) n m)

/-- What a pattern entry makes of a sub-cell (R202, R205). -/
def weighted (px old : Pixel) : Weight → Pixel
  | .copy => px
  | .mix n m => mixPixel px old n m

/-- One entry of a pattern: the sub-cell ROTOFF names is read, mixed and written back (R205). -/
def blendEntry (offset : Nat → Nat → Nat × Nat) (px : Pixel) (b : Block) (e : Entry) : Block :=
  let p := offset e.row e.col
  b.put p.1 p.2 (weighted px (b.cell p.1 p.2) e.weight)

/-- A pattern list walked in order (R205). -/
def blendList (offset : Nat → Nat → Nat × Nat) (px : Pixel) (l : List Entry) (b : Block) : Block :=
  l.foldl (blendEntry offset px) b

/-- Applying pattern p of scale n at rotation step r with the reference colour in PX (R202, R205). -/
def applyPattern (P : Params) (n r : Nat) (p : Pattern) (s : State) : State :=
  { s with oblk := blendList (rotOffset P s n r) s.px (P.pattab n p) s.oblk }

/-- A pattern selected alone: the scale is the running command's, the rotation step the one in progress (log 4, 22). -/
def patternOp (P : Params) (p : Pattern) (s : State) : State :=
  applyPattern P s.run.n.toNat s.sig.rot.toNat p s

/-- The signals SCALEPIX drives at rotation step r over the rotated byte and the logical kernel; shallow and steep
are 0 when line is (R207, R211, 30_encoding.md R106). -/
def lineSignals (P : Params) (T : Rgb → Ycc) (b : BlendInfo) (k : Kernel3) (r : Rot) (old : Signals) : Signals :=
  let line := lineBlend P T b k
  { old with
    line := line
    shallow := line && shallowLine P T k
    steep := line && steepLine P T k
    rot := r }

/-- PATSEL of the signals (10_state.md R25, 30_encoding.md R106). -/
def selected (g : Signals) : BitVec 3 := patSel g.line g.shallow g.steep

/-- Steps 2 to 5 of SCALEPIX: the signals and PX are driven (R207 to R212). -/
def decideLine (P : Params) (r : Rot) (s : State) : State :=
  { s with
    px := referenceColor (cstRead P s) (logicalKernel s.k3 r)
    sig := lineSignals P (cstRead P s) (rotateBlend s.blend.bxy r) (logicalKernel s.k3 r) r s.sig }

/-- SCALEPIX(N, r) (R202): step 1, the decision, then the pattern PATSEL selects. -/
def scalePixOp (P : Params) (n : Nat) (r : Rot) (s : State) : State :=
  if brOf (rotateBlend s.blend.bxy r) = 0#2 then { s with sig := { s.sig with rot := r } }
  else applyPattern P n r.toNat (patternOfSel (selected (decideLine P r s).sig)) (decideLine P r s)

/-- INTERP issued alone. -/
def execInterp (col dst : Pixel) (n m : BitVec 7) (s : State) : Host.Outcome State Fault Refusal :=
  .next { s with ports := { s.ports with interp := mixPixel col dst n.toNat m.toNat } }

/-- SCALEPIX. -/
def execScalePix (n : Scale) (r : Rot) (s : State) : Host.Outcome State Fault Refusal :=
  .next (scalePixOp hw n.toNat r s)

/-- PAT.CORNER (R210, R216). -/
def execPatCorner (s : State) : Host.Outcome State Fault Refusal := .next (patternOp hw .corner s)

/-- PAT.DIAG (R217). -/
def execPatDiag (s : State) : Host.Outcome State Fault Refusal := .next (patternOp hw .diag s)

/-- PAT.SHALLOW (R218). -/
def execPatShallow (s : State) : Host.Outcome State Fault Refusal := .next (patternOp hw .shallow s)

/-- PAT.STEEP (R219). -/
def execPatSteep (s : State) : Host.Outcome State Fault Refusal := .next (patternOp hw .steep s)

/-- PAT.BOTH (R220). -/
def execPatBoth (s : State) : Host.Outcome State Fault Refusal := .next (patternOp hw .both s)

end Sys2Proof.Machine
end

