-- ==== Sys2Proof/Machine/Driver.lean ====
section
/-! DEFINITION. Edge-clamped address generator, output multiplexer and the per-column step: CLAMP, K4LOAD, K3LOAD,
FILL, OUTWR, COLSTEP (46_driver.md). Width, height and scale are the running command's sampled operands (R290). -/

namespace Sys2Proof.Machine

/-- One axis of CLAMP, on signed integers (R261). With size 0, which no command runs with (60_exceptions.md R301),
the result is 0 (log 25). -/
def clampAxis (p : Nat) (d : Int) (size : Nat) : Nat :=
  (min (max ((p : Int) + d) 0) ((size : Int) - 1)).toNat

/-- The element index of a source pixel (20_memory.md R61). -/
def srcIndex (w x y : Nat) : Nat := y * w + x

/-- S(dx, dy) at position (x, y) (R262). -/
def sample (s : State) (x y : Nat) (dx dy : Offset) : Pixel :=
  s.src.read (srcIndex s.run.w.toNat (clampAxis x (offsetInt dx) s.run.w.toNat)
    (clampAxis y (offsetInt dy) s.run.h.toNat))

/-- The Kernel4x4 at position (x, y) (R264). -/
def kernel4At (s : State) (x y : Nat) : Kernel4 where
  b := sample s x y .zero .neg1
  c := sample s x y .pos1 .neg1
  e := sample s x y .neg1 .zero
  f := sample s x y .zero .zero
  g := sample s x y .pos1 .zero
  h := sample s x y .pos2 .zero
  i := sample s x y .neg1 .pos1
  j := sample s x y .zero .pos1
  k := sample s x y .pos1 .pos1
  l := sample s x y .pos2 .pos1
  n := sample s x y .zero .pos2
  o := sample s x y .pos1 .pos2

/-- The Kernel3x3 at position (x, y) (R270). -/
def kernel3At (s : State) (x y : Nat) : Kernel3 where
  a := sample s x y .neg1 .neg1
  b := sample s x y .zero .neg1
  c := sample s x y .pos1 .neg1
  d := sample s x y .neg1 .zero
  e := sample s x y .zero .zero
  f := sample s x y .pos1 .zero
  g := sample s x y .neg1 .pos1
  h := sample s x y .zero .pos1
  i := sample s x y .pos1 .pos1

/-- K4LOAD (R264). -/
def k4LoadOp (s : State) : State :=
  { s with k4 := kernel4At s s.pos.x.toNat s.pos.y.toNat }

/-- K3LOAD (R270). -/
def k3LoadOp (s : State) : State :=
  { s with k3 := kernel3At s s.pos.x.toNat s.pos.y.toNat }

/-- Every sub-cell of an n x n block becomes p (R266). -/
def fillBlock (n : Nat) (p : Pixel) (b : Block) : Block :=
  (subcells n).foldl (fun b c => b.put c.1 c.2 p) b

/-- FILL (R266). -/
def fillOp (s : State) : State :=
  { s with oblk := fillBlock s.run.n.toNat s.k4.f s.oblk }

/-- The DST index of sub-cell (i, j) of source pixel (x, y) at scale n and width w (R276). -/
def outIndex (n w x y i j : Nat) : Nat := (y * n + i) * (w * n) + x * n + j

/-- The block written to DST, row-major (R276). -/
def storeBlock (n w x y : Nat) (b : Block) (m : Memory 32) : Memory 32 :=
  (subcells n).foldl (fun m c => m.write (outIndex n w x y c.1 c.2) (b.cell c.1 c.2)) m

/-- OUTWR (R276). -/
def outWrOp (s : State) : State :=
  { s with dst := storeBlock s.run.n.toNat s.run.w.toNat s.pos.x.toNat s.pos.y.toNat s.oblk s.dst }

/-- Row start: CARRY is cleared in the first column (R281). -/
def rowStartOp (s : State) : State :=
  if s.pos.x = 0 then { s with blend := { s.blend with carry := 0#8 } } else s

/-- The advance of the scan position (R283). -/
def advanceOp (s : State) : State :=
  if s.pos.x.toNat + 1 < s.run.w.toNat then { s with pos := { s.pos with x := s.pos.x + 1 } }
  else { s with pos := { y := s.pos.y + 1, x := 0 } }

/-- The four SCALEPIX operations, r = 0, 1, 2, 3 (R282). -/
def scaleFourOp (P : Params) (s : State) : State :=
  let n := s.run.n.toNat
  scalePixOp P n 3#2 (scalePixOp P n 2#2 (scalePixOp P n 1#2 (scalePixOp P n 0#2 s)))

/-- CLASSIFY's results handed to RELAY (R280 steps 3 and 4). -/
def classifyRelayOp (P : Params) (s : State) : State :=
  let t := classifyOp P s
  relayOp t.sig.bf t.sig.bg t.sig.bj t.sig.bk t

/-- The blend of a column: K3LOAD and four SCALEPIX when the gate passes (R272, R280 step 6). -/
def gatedBlendOp (P : Params) (s : State) : State :=
  if blendGate P s.blend.bxy then scaleFourOp P (k3LoadOp s) else s

/-- COLSTEP (R280). It is total (60_exceptions.md R307). -/
def colStepOp (P : Params) (s : State) : State :=
  advanceOp (outWrOp (gatedBlendOp P (fillOp (classifyRelayOp P (k4LoadOp (rowStartOp s))))))

/-- CLAMP issued alone: the clamped coordinates appear at the unit's outputs. -/
def execClamp (x y : Coord) (dx dy : Offset) (s : State) : Host.Outcome State Fault Refusal :=
  .next { s with ports := { s.ports with
    clampX := BitVec.ofNat Config.wordBits (clampAxis x.toNat (offsetInt dx) s.run.w.toNat)
    clampY := BitVec.ofNat Config.wordBits (clampAxis y.toNat (offsetInt dy) s.run.h.toNat) } }

/-- K4LOAD. -/
def execK4Load (s : State) : Host.Outcome State Fault Refusal := .next (k4LoadOp s)

/-- K3LOAD. -/
def execK3Load (s : State) : Host.Outcome State Fault Refusal := .next (k3LoadOp s)

/-- FILL. -/
def execFill (s : State) : Host.Outcome State Fault Refusal := .next (fillOp s)

/-- OUTWR. -/
def execOutWr (s : State) : Host.Outcome State Fault Refusal := .next (outWrOp s)

/-- COLSTEP. -/
def execColStep (s : State) : Host.Outcome State Fault Refusal := .next (colStepOp hw s)

end Sys2Proof.Machine
end

