-- ==== Sys2Proof/Machine/Command.lean ====
section
/-! DEFINITION. The commands, the engine's own step, and reset: INIT_TABLES, SCALE_IMAGE, CMD.reserved (46_driver.md
R288, R290, 30_encoding.md R105), reset (70_reset_and_hazards.md R330). -/

namespace Sys2Proof.Machine

/-- INIT_TABLES (R288). -/
def initTablesOp (s : State) : State :=
  let t := acceptCommand s
  if s.status.busy then s
  else if fatal t then endCommand t
  else endCommand (cstBuildOp (rotBuildOp t))

/-- Scan initialisation with the operands sampled (R285, R290). -/
def startScan (s : State) : State :=
  { s with
    pos := ⟨0, 0⟩
    blend := { bxy := 0#8, brow := s.blend.brow.clearBelow s.regs.width.toNat, carry := 0#8 }
    run := { n := s.regs.scale, w := s.regs.width, h := s.regs.height }
    env := { s.env with tainted := false } }

/-- The lazy table build and the scan initialisation; a failed build has raised (R290, R308). -/
def buildAndStart (s : State) : State :=
  let t := cstBuildOp (rotBuildOp s)
  if t.tables.csValid then startScan t else t

/-- SCALE_IMAGE up to the scan (R290). The scan and the end of the command are the engine's steps (`engineStep`,
log 16). -/
def scaleImageOp (P : Params) (s : State) : State :=
  let t := acceptCommand s
  if s.status.busy then s
  else if fatal t then endCommand t
  else
    match precondition P s.regs with
    | some e => raise e t
    | none => buildAndStart t

/-- The number of DST elements of the running command. -/
def imageSize (r : Running) : Nat := r.w.toNat * r.n.toNat * r.h.toNat * r.n.toNat

/-- Every DST element of the running command holds any value (93_implementation_defined.md U3, U7; log 17, 18). -/
def scrambleDst (s : State) : State :=
  drawn { s with dst := s.dst.fillBelow (imageSize s.run) (drawPixel s) }

/-- The end of a scan: DONE is 1, BUSY is 0 (R290); the image is any value if the host changed an image element
meanwhile (U3). -/
def finishOp (s : State) : State :=
  let t := if s.env.tainted then scrambleDst s else s
  { t with status := { t.status with busy := false, done := true } }

/-- One step of the engine: `while Y < HEIGHT: COLSTEP`, then the end (R290); nothing while idle (R330). -/
def engineStep (P : Params) (s : State) : State :=
  if s.status.busy then
    if s.pos.y.toNat < s.run.h.toNat then colStepOp P s else finishOp s
  else s

/-- Reset (R330, R331): the block's own state takes its reset values; SRC, DST, the level of tbl_ok and the host's
program are not the block's; an abandoned command leaves any value in the DST elements it could have written (U7). -/
def resetOp (s : State) : State :=
  let t := if s.status.busy then scrambleDst s else s
  { State.reset with
    src := t.src
    dst := t.dst
    env := { t.env with tainted := false } }

/-- INIT_TABLES. -/
def execInitTables (s : State) : Host.Outcome State Fault Refusal := .next (initTablesOp s)

/-- SCALE_IMAGE. -/
def execScaleImage (s : State) : Host.Outcome State Fault Refusal := .next (scaleImageOp hw s)

/-- CMD.reserved: the write is ignored, no state changes (30_encoding.md R105). -/
def execCmdReserved (_word : HostWord) (s : State) : Host.Outcome State Fault Refusal := .next s

/-- reset. -/
def execReset (s : State) : Host.Outcome State Fault Refusal := .next (resetOp s)

end Sys2Proof.Machine
end

