-- ==== Sys2Proof/Machine/HostRegs.lean ====
section
/-! DEFINITION. The register file seen from the host: the writes of registers 1 to 4, the reads, the write of STATUS,
and the registers that do not exist (10_state.md R33 to R38, 30_encoding.md R103). A write takes effect also while
BUSY; the running command keeps its sampled operands (70_reset_and_hazards.md R340). -/

namespace Sys2Proof.Machine

/-- What a register reads, zero-extended (R33, R103). -/
def registerRead (s : State) : HostReg → HostWord
  | .cmd => 0#32
  | .scale => s.regs.scale.setWidth 32
  | .width => s.regs.width
  | .height => s.regs.height
  | .dstCap => s.regs.dstCap
  | .status => statusWord s

/-- A word returned to the host (log 20). -/
def deliver (v : HostWord) (s : State) : State := { s with env := { s.env with hostData := v } }

/-- wr_SCALE (R35). -/
def execWrScale (v : HostWord) (s : State) : Host.Outcome State Fault Refusal :=
  .next { s with regs := { s.regs with scale := scaleBits v } }

/-- A write of WIDTH (R36). -/
def setWidthOp (P : Params) (v : HostWord) (s : State) : State :=
  { s with regs := { s.regs with width := dimensionBits P v } }

/-- A write of HEIGHT (R36). -/
def setHeightOp (P : Params) (v : HostWord) (s : State) : State :=
  { s with regs := { s.regs with height := dimensionBits P v } }

/-- A write of DST_CAP (R37). -/
def setDstCapOp (P : Params) (v : HostWord) (s : State) : State :=
  { s with regs := { s.regs with dstCap := capacityBits P v } }

/-- wr_WIDTH. -/
def execWrWidth (v : HostWord) (s : State) : Host.Outcome State Fault Refusal := .next (setWidthOp hw v s)

/-- wr_HEIGHT. -/
def execWrHeight (v : HostWord) (s : State) : Host.Outcome State Fault Refusal := .next (setHeightOp hw v s)

/-- wr_DST_CAP. -/
def execWrDstCap (v : HostWord) (s : State) : Host.Outcome State Fault Refusal := .next (setDstCapOp hw v s)

/-- rd_STATUS and the forms of its row: a read returns the register and changes nothing else; a write of STATUS is
ignored (R38, R103). -/
def execRdStatus (form : StatusForm) (s : State) : Host.Outcome State Fault Refusal :=
  match form with
  | .read reg => .next (deliver (registerRead s reg) s)
  | .writeIgnored _ => .next s

/-- reg.nonexistent: a read returns 0, a write is ignored (R33). -/
def execRegNonexistent (_reg : HostWord) (form : AbsentForm) (s : State) : Host.Outcome State Fault Refusal :=
  match form with
  | .read => .next (deliver 0#32 s)
  | .write _ => .next s

end Sys2Proof.Machine
end

