-- ==== Sys2Proof/Machine/Dispatch.lean ====
section
/-! DEFINITION. The meaning of each operation, one arm for each constructor of Instr. -/

namespace Sys2Proof.Machine

def exec (i : Instr) (s : State) : Host.Outcome State Fault Refusal :=
  match i with
  | .initTables => Sys2Proof.Machine.execInitTables s
  | .scaleImage => Sys2Proof.Machine.execScaleImage s
  | .cmdReserved word => Sys2Proof.Machine.execCmdReserved word s
  | .wrScale value => Sys2Proof.Machine.execWrScale value s
  | .wrWidth value => Sys2Proof.Machine.execWrWidth value s
  | .wrHeight value => Sys2Proof.Machine.execWrHeight value s
  | .wrDstCap value => Sys2Proof.Machine.execWrDstCap value s
  | .rdStatus form => Sys2Proof.Machine.execRdStatus form s
  | .regNonexistent reg form => Sys2Proof.Machine.execRegNonexistent reg form s
  | .patCorner => Sys2Proof.Machine.execPatCorner s
  | .patDiag => Sys2Proof.Machine.execPatDiag s
  | .patShallow => Sys2Proof.Machine.execPatShallow s
  | .patSteep => Sys2Proof.Machine.execPatSteep s
  | .patBoth => Sys2Proof.Machine.execPatBoth s
  | .cstBuild => Sys2Proof.Machine.execCstBuild s
  | .dist p q => Sys2Proof.Machine.execDist p q s
  | .eqTol p q => Sys2Proof.Machine.execEqTol p q s
  | .ident p q => Sys2Proof.Machine.execIdent p q s
  | .rotBuild => Sys2Proof.Machine.execRotBuild s
  | .rotOff n r row col => Sys2Proof.Machine.execRotOff n r row col s
  | .kRot r name => Sys2Proof.Machine.execKRot r name s
  | .bRot b r => Sys2Proof.Machine.execBRot b r s
  | .classify => Sys2Proof.Machine.execClassify s
  | .relay bf bg bj bk => Sys2Proof.Machine.execRelay bf bg bj bk s
  | .fill => Sys2Proof.Machine.execFill s
  | .k3Load => Sys2Proof.Machine.execK3Load s
  | .scalePix n r => Sys2Proof.Machine.execScalePix n r s
  | .interp col dst n m => Sys2Proof.Machine.execInterp col dst n m s
  | .outWr => Sys2Proof.Machine.execOutWr s
  | .clamp x y dx dy => Sys2Proof.Machine.execClamp x y dx dy s
  | .k4Load => Sys2Proof.Machine.execK4Load s
  | .colStep => Sys2Proof.Machine.execColStep s
  | .reset => Sys2Proof.Machine.execReset s

end Sys2Proof.Machine
end

