-- ==== Sys2Proof/Machine/HostPort.lean ====
section
/-! DEFINITION. The host's turns that are not operations of the opcode table: its accesses to SRC and DST, `poll`,
and the level of tbl_ok at a reset (30_encoding.md R108, 60_exceptions.md R308, 70_reset_and_hazards.md R340), and one
turn of a block with given parameters. -/

namespace Sys2Proof.Machine

/-- An image element is changed while the command reads or writes it (R340; U3, log 17, 29). -/
def taint (s : State) : State := { s with env := { s.env with tainted := true } }

/-- `src[a] = p`. While BUSY a store to an element the command reads makes its image any value (R340, U3). R340 forbids
any write of SRC while BUSY but gives the unspecified image for a changed element alone: that a store of the pixel the
element already holds counts as a change too is the model's reading. DESIGN CHOICE (log 17), safe. -/
def srcStoreOp (a : Nat) (p : Pixel) (s : State) : State :=
  let t := { s with src := s.src.write a p }
  if s.status.busy && decide (a < s.run.w.toNat * s.run.h.toNat) then taint t else t

/-- The host stores a pixel in its destination buffer. While BUSY the spec forbids it and states no result
(20_memory.md R71): the image is any value. DESIGN CHOICE (log 29), safe for the image. -/
def dstStoreOp (a : Nat) (p : Pixel) (s : State) : State :=
  let t := { s with dst := s.dst.write a p }
  if s.status.busy && decide (a < imageSize s.run) then taint t else t

/-- `dst[a]`: the element; any value while BUSY (20_memory.md R72, U9; log 19). That the element is returned as soon as
BUSY = 0, although the host may not have read STATUS since the command ended, is the model's choice between U9 (and R15)
and R72 (and D7), which asks for that read. DESIGN CHOICE (log 19), unsafe between the end of a command and that read. -/
def dstLoadOp (a : Nat) (s : State) : State :=
  if s.status.busy then drawn (deliver (drawPixel s a) s)
  else deliver (s.dst.read a) s

/-- A reset with the level tbl_ok keeps until the next one (R308, log 14). -/
def resetWithPinOp (tblOk : Bool) (s : State) : State :=
  resetOp { s with env := { s.env with tblOk := tblOk } }

/-- The inbox without its head. -/
def takeSlot (rest : List Slot) (s : State) : State := { s with env := { s.env with inbox := rest } }

/-- One turn of `poll`: STATUS is read; while BUSY the engine has its step and the poll stays (R108). -/
def pollOp (P : Params) (s : State) : State :=
  let t := deliver (statusWord s) s
  if s.status.busy then engineStep P t else takeSlot s.env.inbox.tail t

/-- An issued operation is decoded and run; the inbox has moved on. -/
def issueOp (z : Sizes) (run : Instr → State → Host.Outcome State Fault Refusal) (e : Issue) (s : State) :
    Host.Outcome State Fault Refusal :=
  match decodeFor z e with
  | .ok i => run i s
  | .error why => .refused (.undecodable why)

/-- One turn of a block with parameters P whose operations are `run`: the turn at the head of the inbox, or the
engine's own step (46_driver.md R260; log 1, 2). -/
def turnOp (P : Params) (run : Instr → State → Host.Outcome State Fault Refusal) (s : State) :
    Host.Outcome State Fault Refusal :=
  match s.env.inbox with
  | [] => .next (engineStep P s)
  | .engine :: rest => .next (engineStep P (takeSlot rest s))
  | .issue e :: rest => issueOp P.toSizes run e (takeSlot rest s)
  | .poll :: _ => .next (pollOp P s)
  | .srcStore a p :: rest => .next (srcStoreOp a.toNat p (takeSlot rest s))
  | .dstStore a p :: rest => .next (dstStoreOp a.toNat p (takeSlot rest s))
  | .dstLoad a :: rest => .next (dstLoadOp a.toNat (takeSlot rest s))
  | .resetWithPin tblOk :: rest => .next (resetWithPinOp tblOk (takeSlot rest s))

end Sys2Proof.Machine
end

