-- ==== Sys2Proof/Machine/Step.lean ====
section
/-! DEFINITION. One step of the machine: the turn at the head of the inbox, or the engine's own step (00_scope.md R12,
46_driver.md R260). What it calls stands in Machine/. -/

namespace Sys2Proof.Machine

/-- One step of this hardware (log 1, 2). -/
def step (s : State) : Host.Outcome State Fault Refusal := turnOp hw exec s

/-- s with the operation of a table row's bits (`tableIssue`) as the next issue of its inbox; s itself where the row
has no bits (log 2, 3). -/
def State.withFetchWord (s : State) (nbits w : Nat) : State :=
  match tableIssue nbits w with
  | none => s
  | some e => { s with env := { s.env with inbox := .issue e :: s.env.inbox } }

end Sys2Proof.Machine
end

