-- ==== Sys2Proof/Machine/AnyParams.lean ====
section
/-! DEFINITION. The block with any parameters: R6 of 00_scope.md makes each a configuration field, and what is OPEN among
them an argument (92_eei_decisions.md D5; PATTAB: 45_blend_tables_3_to_6.md R240, R248). `exec` and `step` are the case
of this hardware's values, `hw`. -/

namespace Sys2Proof.Machine

/-- This hardware with another PATTAB. -/
def withTable (tab : Nat → Pattern → List Entry) : Params := { hw with pattab := tab }

/-- Whether an operation reads PATTAB: the patterns, SCALEPIX, and COLSTEP, which runs SCALEPIX (R205, R282). -/
def readsTable : Instr → Bool
  | .patCorner | .patDiag | .patShallow | .patSteep | .patBoth | .scalePix _ _ | .colStep => true
  | .initTables | .scaleImage | .cmdReserved _ | .wrScale _ | .wrWidth _ | .wrHeight _ | .wrDstCap _ | .rdStatus _
  | .regNonexistent _ _ | .cstBuild | .dist _ _ | .eqTol _ _ | .ident _ _ | .rotBuild | .rotOff _ _ _ _ | .kRot _ _
  | .bRot _ _ | .classify | .relay _ _ _ _ | .fill | .k3Load | .interp _ _ _ _ | .outWr | .clamp _ _ _ _ | .k4Load
  | .reset => false

/-- The meaning of an operation on a block with parameters P. What reads no parameter has this hardware's meaning. -/
def execWith (P : Params) (i : Instr) (s : State) : Host.Outcome State Fault Refusal :=
  match i with
  | .scaleImage => .next (scaleImageOp P s)
  | .wrWidth v => .next (setWidthOp P v s)
  | .wrHeight v => .next (setHeightOp P v s)
  | .wrDstCap v => .next (setDstCapOp P v s)
  | .patCorner => .next (patternOp P .corner s)
  | .patDiag => .next (patternOp P .diag s)
  | .patShallow => .next (patternOp P .shallow s)
  | .patSteep => .next (patternOp P .steep s)
  | .patBoth => .next (patternOp P .both s)
  | .dist p q => .next (distOp P p q s)
  | .eqTol p q => .next (eqTolOp P p q s)
  | .rotOff n r i j => .next (rotOffOp P n r i j s)
  | .classify => .next (classifyOp P s)
  | .scalePix n r => .next (scalePixOp P n.toNat r s)
  | .colStep => .next (colStepOp P s)
  | .initTables | .cmdReserved _ | .wrScale _ | .rdStatus _ | .regNonexistent _ _ | .cstBuild | .ident _ _
  | .rotBuild | .kRot _ _ | .bRot _ _ | .relay _ _ _ _ | .fill | .k3Load | .interp _ _ _ _ | .outWr
  | .clamp _ _ _ _ | .k4Load | .reset => exec i s

/-- The block with parameters P as a machine. -/
def coreWith (P : Params) : Host.Core :=
  { State := State, Fault := Fault, Refusal := Refusal, step := turnOp P (execWith P), reset := State.reset }

end Sys2Proof.Machine
end

