-- ==== Sys2Proof/Safety.lean ====
section
/-! DEFINITION. What counts as a sound state, in the terms the statements use: the invariant every turn of a real host
and every engine step keeps, and the scan invariant that says what the row buffer and the destination hold in the
middle of a scan, without the buffers (43_blend_pipeline.md R188, 46_driver.md R291). -/

namespace Sys2Proof.Machine

/-- A turn a host can take: it reaches the register file, SRC, DST and reset, not the internal selectors
(30_encoding.md R102, 40_color_metric.md R120). -/
def Slot.fromHost : Slot → Bool
  | .issue (.wr _ _) => true
  | .issue (.rd _) => true
  | .issue (.patsel _) => false
  | .issue (.seq op) => op == .reset
  | .poll | .srcStore _ _ | .dstStore _ _ | .dstLoad _ | .resetWithPin _ | .engine => true

/-- Whether a turn is a reset. -/
def Slot.isReset : Slot → Bool
  | .issue (.seq op) => op == .reset
  | .resetWithPin _ => true
  | .issue (.wr _ _) | .issue (.rd _) | .issue (.patsel _) => false
  | .poll | .srcStore _ _ | .dstStore _ _ | .dstLoad _ | .engine => false

/-- A BlendInfo byte no field of which holds the reserved 3 (30_encoding.md R92, 93_implementation_defined.md U1). -/
def legalBlend (b : BlendInfo) : Bool :=
  legalType (tlOf b) && legalType (trOf b) && legalType (brOf b) && legalType (blOf b)

/-- The memories are in canonical form. -/
structure State.Canonical (s : State) : Prop where
  src : s.src.wf = true
  dst : s.dst.wf = true
  brow : s.blend.brow.wf = true

/-- A table that is valid has been built (10_state.md R32, 20_memory.md R73). -/
structure State.TablesSound (s : State) : Prop where
  cst : s.tables.csValid = true → s.tables.cst = .built
  rot : s.tables.rotValid = true → s.tables.rot = .built

/-- STATUS is sound: ERR is a code of 30_encoding.md R98, an error leaves the block idle with DONE = 0
(60_exceptions.md R304), the fatal error leaves CSTAB unbuilt (R308), and DONE needs both tables (46_driver.md R290). -/
structure State.StatusSound (s : State) : Prop where
  code : s.status.err.toNat ≤ 4
  idle : s.status.err ≠ 0#3 → s.status.busy = false ∧ s.status.done = false
  fatal : s.status.err = 4#3 → s.tables.csValid = false
  done : s.status.done = true → s.status.busy = false ∧ s.tables.csValid = true ∧ s.tables.rotValid = true

/-- The scan in progress is in range (60_exceptions.md R307): its operands passed the preconditions and the position
is in the image or at its end (10_state.md R24). -/
structure State.ScanInRange (P : Params) (s : State) : Prop where
  cst : s.tables.csValid = true
  rot : s.tables.rotValid = true
  scale : P.supports s.run.n = true
  width : 1 ≤ s.run.w.toNat ∧ s.run.w.toNat ≤ P.maxW
  height : 1 ≤ s.run.h.toNat
  size : imageSize s.run < 2 ^ P.capBits
  row : s.pos.y.toNat ≤ s.run.h.toNat
  col : s.pos.x.toNat < s.run.w.toNat
  last : s.pos.y.toNat = s.run.h.toNat → s.pos.x.toNat = 0

/-- The blend-state registers hold no reserved type, and BROW lists no entry beyond its depth (10_state.md R26 to
R28). -/
structure State.BlendSound (P : Params) (s : State) : Prop where
  bxy : legalBlend s.blend.bxy = true
  carry : legalBlend s.blend.carry = true
  brow : ∀ c ∈ s.blend.brow, c.1 < P.maxW ∧ legalBlend c.2 = true

/-- The registers hold no bit above their widths: DIMBITS for WIDTH, HEIGHT and their samples, CAPBITS for DST_CAP,
DIMBITS + 1 for the position (00_scope.md R6, 10_state.md R24, R33, R36, R37). -/
structure State.RegsSound (P : Params) (s : State) : Prop where
  width : s.regs.width.toNat < 2 ^ P.dimBits
  height : s.regs.height.toNat < 2 ^ P.dimBits
  dstCap : s.regs.dstCap.toNat < 2 ^ P.capBits
  runW : s.run.w.toNat < 2 ^ P.dimBits
  runH : s.run.h.toNat < 2 ^ P.dimBits
  posX : s.pos.x.toNat < 2 ^ (P.dimBits + 1)
  posY : s.pos.y.toNat < 2 ^ (P.dimBits + 1)

/-- OBLK is the MAXSCALE x MAXSCALE corner: what else it is held in is 0 (10_state.md R29). -/
def State.BlockSound (P : Params) (s : State) : Prop :=
  ∀ i j, i < Config.scaleLimit → j < Config.scaleLimit → P.maxScale ≤ i ∨ P.maxScale ≤ j → s.oblk.cell i j = 0

/-- The invariant of a block with parameters P. -/
structure State.Inv (P : Params) (s : State) : Prop where
  canonical : s.Canonical
  tables : s.TablesSound
  status : s.StatusSound
  scan : s.status.busy = true → s.ScanInRange P
  blend : s.BlendSound P
  regs : s.RegsSound P
  block : s.BlockSound P
  host : ∀ t ∈ s.env.inbox, t.fromHost = true

/-! ### The scan without its buffers -/

/-- CLASSIFY at source pixel (x, y). -/
def cornersAt (P : Params) (s : State) (x y : Nat) : Corners := corners P (cstRead P s) (kernel4At s x y)

/-- The TR and TL fields of pixel (x, y), the bottom fields 0 (43_blend_pipeline.md R188). -/
def topFields (P : Params) (s : State) (x y : Nat) : BlendInfo :=
  packBlend 0#2 0#2
    (if 1 ≤ y then (cornersAt P s x (y - 1)).j else 0#2)
    (if 1 ≤ x ∧ 1 ≤ y then (cornersAt P s (x - 1) (y - 1)).k else 0#2)

/-- The BL field of pixel (x, y) (R188). -/
def leftField (P : Params) (s : State) (x y : Nat) : BlendType :=
  if 1 ≤ x then (cornersAt P s (x - 1) y).g else 0#2

/-- The BlendInfo byte of pixel (x, y), from four classifications (R188). -/
def blendAt (P : Params) (s : State) (x y : Nat) : BlendInfo :=
  setBr (setBl (topFields P s x y) (leftField P s x y)) (cornersAt P s x y).f

/-- What BROW and CARRY hold before COLSTEP at the position (10_state.md R27, R28). -/
structure State.RelayHolds (P : Params) (s : State) : Prop where
  done : ∀ c, c < s.pos.x.toNat → s.blend.brow.read c = topFields P s c (s.pos.y.toNat + 1)
  here : s.blend.brow.read s.pos.x.toNat =
    setBl (topFields P s s.pos.x.toNat s.pos.y.toNat) (leftField P s s.pos.x.toNat s.pos.y.toNat)
  ahead : ∀ c, s.pos.x.toNat < c → c < s.run.w.toNat → s.blend.brow.read c = topFields P s c s.pos.y.toNat
  carry : 1 ≤ s.pos.x.toNat →
    s.blend.carry = setTl 0#8 (cornersAt P s (s.pos.x.toNat - 1) s.pos.y.toNat).k

/-- One rotation step of the blend of a block, with the offsets of the rotation transform itself (44_pixel_scaler.md
R202, 41_rotation_geometry.md R143). -/
def blendRotation (P : Params) (T : Rgb → Ycc) (n : Nat) (bxy : BlendInfo) (k3 : Kernel3) (b : Block) (r : Rot) :
    Block :=
  let turned := rotateBlend bxy r
  let k := logicalKernel k3 r
  let line := lineBlend P T turned k
  let sel := patSel line (line && shallowLine P T k) (line && steepLine P T k)
  if brOf turned = 0#2 then b
  else blendList (fun i j => rotN n r.toNat (i, j)) (referenceColor T k) (P.pattab n (patternOfSel sel)) b

/-- The output block of source pixel (x, y) in closed form (46_driver.md R291): the flat block, then the rotation
steps 0 to 3. -/
def outputBlock (P : Params) (s : State) (x y : Nat) : Block :=
  [0#2, 1#2, 2#2, 3#2].foldl
    (blendRotation P (cstRead P s) s.run.n.toNat (blendAt P s x y) (kernel3At s x y))
    (fillBlock s.run.n.toNat (sample s x y .zero .zero) State.reset.oblk)

/-- Whether source pixel (x, y) has been scanned before the position. -/
def scannedBefore (p : Position) (x y : Nat) : Prop :=
  y < p.y.toNat ∨ (y = p.y.toNat ∧ x < p.x.toNat)

/-- What DST holds before COLSTEP at the position: the output blocks of the pixels scanned (R291). -/
def State.OutputHolds (P : Params) (s : State) : Prop :=
  ∀ x y, x < s.run.w.toNat → y < s.run.h.toNat → scannedBefore s.pos x y →
    ∀ i j, i < s.run.n.toNat → j < s.run.n.toNat →
      s.dst.read (outIndex s.run.n.toNat s.run.w.toNat x y i j) = (outputBlock P s x y).cell i j

end Sys2Proof.Machine
end

