-- ==== Sys2Proof/Certificates/Slice0/Obligations.lean ====
section
/-! DEFINITION. The statements for the provers, family by family, in the order of spec/. Each docstring names the rules
a statement formalises; a clause that is the model's own choice says so and names its log entry. -/

section

open Sys2Proof Sys2Proof.Machine

/-! ### Encodings (30_encoding.md) -/

/-- Every well-formed operation is read back from its encoding with every operand, and the decoder answers nothing but
well-formed operations, each of which its encoding stands for (R102 to R106; 10_state.md R33, R34). R102 gives the SEQ
operations no encoding: that such an operation stands for itself is the model's choice (log 31). That an ill-formed
issue is refused, so that nothing but well-formed operations is answered, is log 26 (DEDUCED). That rdStatus groups the
reads of registers 0 to 5 is log 5 (DEDUCED). The last clause is the same for a block of any sizes (00_scope.md R6). -/
def Obligations.EncodeThenDecode : Prop :=
  (∀ i : Instr, i.wf = true → decode (encode i) = .ok i) ∧
    (∀ (e : Issue) (i : Instr), decode e = .ok i → i.wf = true ∧ decode (encode i) = .ok i) ∧
    ∀ (z : Sizes) (e : Issue) (i : Instr),
      (i.wfFor z = true → decodeFor z (encode i) = .ok i) ∧ (decodeFor z e = .ok i → i.wfFor z = true)

/-- Words written out from the encoding tables: commands with their ignored high bits (R34, R104, R105), register
accesses (R33, R103), pattern selects (R106). The last two clauses are the model's, not the tables': a sequencer place,
which has no bits, carries its operation (log 31), and a command at a sequencer place is refused (log 26). -/
def Obligations.SpecWordsDecode : Prop :=
  decode (.wr 0#32 0x00000001#32) = .ok .initTables ∧
    decode (.wr 0#32 0xFFFFFFF2#32) = .ok .scaleImage ∧
    decode (.wr 0#32 0x00000010#32) = .ok (.cmdReserved 0x00000010#32) ∧
    decode (.wr 1#32 0x00000003#32) = .ok (.wrScale 3#32) ∧
    decode (.wr 4#32 0x00000024#32) = .ok (.wrDstCap 36#32) ∧
    decode (.rd 5#32) = .ok (.rdStatus (.read .status)) ∧
    decode (.rd 6#32) = .ok (.regNonexistent 6#32 .read) ∧
    decode (.patsel 0b011#3) = .ok .patCorner ∧
    decode (.patsel 0b100#3) = .ok .patDiag ∧
    decode (.patsel 0b110#3) = .ok .patShallow ∧
    decode (.patsel 0b101#3) = .ok .patSteep ∧
    decode (.patsel 0b111#3) = .ok .patBoth ∧
    decode (.seq .colStep) = .ok .colStep ∧
    decode (.seq .initTables) = .error .notSeq

/-- PATSEL = line, shallow, steep: the eight codes select the five patterns (R106, 44_pixel_scaler.md R212). -/
def Obligations.EightCodesSelectFivePatterns : Prop :=
  ∀ line shallow steep : Bool,
    decode (.patsel (patSel line shallow steep)) = .ok
      (if line then
        (if shallow then (if steep then .patBoth else .patShallow) else (if steep then .patSteep else .patDiag))
      else .patCorner)

/-- A CMD write: bits 3:0 are the code, 1 and 2 are the commands, any other code leaves the state as it is
(10_state.md R34, 30_encoding.md R104, R105). -/
def Obligations.CommandCodeDecides : Prop :=
  ∀ (word : HostWord) (s : State),
    (word.toNat % 16 = 1 → decode (.wr 0#32 word) = .ok .initTables) ∧
      (word.toNat % 16 = 2 → decode (.wr 0#32 word) = .ok .scaleImage) ∧
      (word.toNat % 16 ≠ 1 → word.toNat % 16 ≠ 2 → decode (.wr 0#32 word) = .ok (.cmdReserved word)) ∧
      exec (.cmdReserved word) s = .next s

/-! ### A step (00_scope.md R12, 46_driver.md R260) -/

/-- The operation issued at the head of the inbox is the one executed, on the state whose inbox has moved on. The inbox
of turns is the model's choice (log 1, 2), as is an internal selector issued from it (log 4); R12 and R102 give the
operations and where they are issued, not a place that holds them. -/
def Obligations.StepRunsTheIssuedOperation : Prop :=
  ∀ (s : State) (e : Issue) (rest : List Slot) (i : Instr), s.env.inbox = .issue e :: rest → decode e = .ok i →
    step s = exec i { s with env := { s.env with inbox := rest } }

/-- The engine's turn, with no host turn waiting or the host giving its turn away: one COLSTEP while the scan is not at
its end; at the end DONE is 1 and BUSY is 0 (if no image element was changed meanwhile, log 17); an idle block does
nothing (46_driver.md R290, 70_reset_and_hazards.md R330). That a turn is one step of the engine (log 1), that a host
turn can give it away (log 2) and that the end of a command is a turn of its own (log 16, DEDUCED) are the model's. -/
def Obligations.EngineTurnRunsTheScan : Prop :=
  ∀ s t : State,
    (s.env.inbox = [] ∧ t = s) ∨
        (∃ rest, s.env.inbox = .engine :: rest ∧ t = { s with env := { s.env with inbox := rest } }) →
      (s.status.busy = true → s.pos.y.toNat < s.run.h.toNat → step s = exec .colStep t) ∧
        (s.status.busy = true → s.run.h.toNat ≤ s.pos.y.toNat → s.env.tainted = false →
          step s = .next { t with status := { t.status with busy := false, done := true } }) ∧
        (s.status.busy = false → step s = .next t)

/-- A table word placed as the next issue is run by the very next step as the operation it decodes to. The placing in
the inbox (log 2) and the reading of a table row's bits as an issue (log 3) are the model's own. -/
def Obligations.FetchedWordRuns : Prop :=
  ∀ (s : State) (nbits w : Nat) (i : Instr), decodeTableWord nbits w = some i →
    step (s.withFetchWord nbits w) = exec i s

/-! ### Color-distance LUT and comparator (40_color_metric.md) -/

/-- DIST is the squared distance of the two table triples, at most 195075, so that its 18 bits hold it; it is 0 on
identical pixels and symmetric; nothing but the unit's output changes (R124). -/
def Obligations.DistIsTheSquaredDistance : Prop :=
  ∀ (s : State) (p q : Pixel), ∃ d : BitVec 18,
    exec (.dist p q) s = .next { s with ports := { s.ports with dist := d } } ∧
      exec (.dist q p) s = .next { s with ports := { s.ports with dist := d } } ∧
      (d.toNat : Int) =
        (((lumaOf (cstRead hw s (rgbOf p))).toNat : Int) - (lumaOf (cstRead hw s (rgbOf q))).toNat) ^ 2 +
          (((chromaBlueOf (cstRead hw s (rgbOf p))).toNat : Int) - (chromaBlueOf (cstRead hw s (rgbOf q))).toNat) ^ 2 +
          (((chromaRedOf (cstRead hw s (rgbOf p))).toNat : Int) - (chromaRedOf (cstRead hw s (rgbOf q))).toNat) ^ 2 ∧
      d.toNat ≤ 195075 ∧
      (p = q → d = 0#18)

/-- EQ holds exactly when DIST is below 900, so of a pixel and itself, and in both orders (R125). -/
def Obligations.EqIsDistanceBelowTolerance : Prop :=
  ∀ (s : State) (p q : Pixel), ∃ d : BitVec 18,
    exec (.dist p q) s = .next { s with ports := { s.ports with dist := d } } ∧
      exec (.eqTol p q) s = .next { s with ports := { s.ports with eqTol := decide (d.toNat < 900) } } ∧
      exec (.eqTol q p) s = exec (.eqTol p q) s ∧
      exec (.eqTol p p) s = .next { s with ports := { s.ports with eqTol := true } }

/-- DIST and EQ do not see alpha (R126). -/
def Obligations.AlphaIsNotSeenByDistOrEq : Prop :=
  ∀ (s : State) (p q : Pixel) (a a' : Channel),
    let withAlpha : Channel → Pixel → Pixel := fun a p => a ++ rgbOf p
    exec (.dist (withAlpha a p) (withAlpha a' q)) s = exec (.dist p q) s ∧
      exec (.eqTol (withAlpha a p) (withAlpha a' q)) s = exec (.eqTol p q) s

/-- IDENT compares all 32 bits; two pixels that differ only in alpha are not IDENT, yet their DIST is 0 and they are EQ
(R127, R130). -/
def Obligations.IdentComparesAllBits : Prop :=
  ∀ (s : State) (p q : Pixel),
    exec (.ident p q) s = .next { s with ports := { s.ports with ident := decide (p = q) } } ∧
      (rgbOf p = rgbOf q →
        exec (.dist p q) s = .next { s with ports := { s.ports with dist := 0#18 } } ∧
          exec (.eqTol p q) s = .next { s with ports := { s.ports with eqTol := true } })

/-- CSTBUILD: nothing on a valid table; TableInitFailure before any entry is written when tbl_ok is 0; else every entry
takes the parameter's value and the table is valid. A second CSTBUILD changes nothing (R121). -/
def Obligations.CstBuildFillsTheTableOnce : Prop :=
  ∀ s : State,
    (s.tables.csValid = true → exec .cstBuild s = .next s) ∧
      (s.tables.csValid = false → s.env.tblOk = false →
        exec .cstBuild s = .next { s with status := { busy := false, done := false, err := 4#3 } }) ∧
      (s.tables.csValid = false → s.env.tblOk = true → ∃ t,
        exec .cstBuild s = .next t ∧
          t = { s with tables := { s.tables with cst := .built, csValid := true } } ∧
          (∀ v : Rgb, cstRead hw t v = hw.cstab v) ∧
          exec .cstBuild t = .next t)

/-- The contents of the built CSTAB: the three integer formulas of R122, whose numerators are non-negative and whose
results fit 8 bits, and grey maps to itself with neutral chroma (R123). The chroma coefficients and the truncation are
the spec's own choice, taken as this hardware's parameter: log 7. -/
def Obligations.DefaultTableContents : Prop :=
  ∀ (s : State) (v : Rgb), s.tables.cst = .built →
    let r : Int := (v.extractLsb' 16 8).toNat
    let g : Int := (v.extractLsb' 8 8).toNat
    let b : Int := (v.extractLsb' 0 8).toNat
    let t := cstRead hw s v
    ((lumaOf t).toNat : Int) = (299 * r + 587 * g + 114 * b) / 1000 ∧
      ((chromaBlueOf t).toNat : Int) = (128000 - 169 * r - 331 * g + 500 * b) / 1000 ∧
      ((chromaRedOf t).toNat : Int) = (128000 + 500 * r - 419 * g - 81 * b) / 1000 ∧
      0 ≤ 128000 - 169 * r - 331 * g + 500 * b ∧
      0 ≤ 128000 + 500 * r - 419 * g - 81 * b ∧
      (r = g → g = b → t = packYcc (v.extractLsb' 0 8) 128#8 128#8)

/-! ### Rotation-indexed geometry LUT (41_rotation_geometry.md) -/

/-- ROTBUILD: nothing on a valid table; else the entry of every scale, rotation step and sub-cell takes the rotation
transform and the table is valid (R141). -/
def Obligations.RotBuildWritesEveryEntry : Prop :=
  ∀ s : State,
    (s.tables.rotValid = true → exec .rotBuild s = .next s) ∧
      (s.tables.rotValid = false → ∃ t,
        exec .rotBuild s = .next t ∧
          t = { s with tables := { s.tables with rot := .built, rotValid := true } } ∧
          (∀ n r i j : Nat, 2 ≤ n → n ≤ 6 → r < 4 → i < n → j < n →
            rotRead hw t (((n - 2) * 4 + r) * 36 + i * 6 + j) =
              BitVec.ofNat 3 (rotN n r (i, j)).1 ++ BitVec.ofNat 3 (rotN n r (i, j)).2))

/-- ROTOFF changes nothing but the unit's output, which on the built table is the position of the closed form (R140,
R143). It is never issued on a table not built; nothing is said of its output there. -/
def Obligations.RotOffIsTheClosedForm : Prop :=
  ∀ (s : State) (n : Scale) (r : Rot) (row col : BitVec 3), ∃ e : RotEntry,
    exec (.rotOff n r row col) s = .next { s with ports := { s.ports with rotOff := e } } ∧
      (s.tables.rot = .built → (Instr.rotOff n r row col).wf = true →
        let i := row.toNat
        let j := col.toNat
        let m := n.toNat - 1
        ((rowOf e).toNat, (colOf e).toNat) =
          if r = 0#2 then (i, j) else if r = 1#2 then (m - j, i) else if r = 2#2 then (m - i, m - j) else (j, m - i))

/-- Four quarter turns through the built table are the identity, and each rotation step maps the grid one to one onto
itself (R142). -/
def Obligations.FourQuarterTurnsAreTheIdentity : Prop :=
  ∀ (s : State) (n i j : Nat), s.tables.rot = .built → 2 ≤ n → n ≤ 6 → i < n → j < n →
    let turn : Nat × Nat → Nat × Nat := fun p => rotOffset hw s n 1 p.1 p.2
    turn (turn (turn (turn (i, j)))) = (i, j) ∧
      ∀ r, r < 4 →
        (rotOffset hw s n r i j).1 < n ∧ (rotOffset hw s n r i j).2 < n ∧
          ∃ i' j', i' < n ∧ j' < n ∧ rotOffset hw s n r i' j' = (i, j) ∧
            ∀ i'' j'', i'' < n → j'' < n → rotOffset hw s n r i'' j'' = (i, j) → i'' = i' ∧ j'' = j'

/-- KROT reads the K3 register that R145's table names for the name and the rotation step, and changes nothing but the
unit's output (R145). -/
def Obligations.KRotReadsThePermutedName : Prop :=
  ∀ (s : State) (r : Rot) (name : KName),
    let at0123 : Pixel → Pixel → Pixel → Pixel → Pixel := fun r0 r1 r2 r3 =>
      if r = 0#2 then r0 else if r = 1#2 then r1 else if r = 2#2 then r2 else r3
    let k := s.k3
    exec (.kRot r name) s = .next { s with ports := { s.ports with kRot :=
      match name with
      | .a => at0123 k.a k.g k.i k.c
      | .b => at0123 k.b k.d k.h k.f
      | .c => at0123 k.c k.a k.g k.i
      | .d => at0123 k.d k.h k.f k.b
      | .e => at0123 k.e k.e k.e k.e
      | .f => at0123 k.f k.b k.d k.h
      | .g => at0123 k.g k.i k.c k.a
      | .h => at0123 k.h k.f k.b k.d
      | .i => at0123 k.i k.c k.a k.g } }

/-- BROT rotates the byte left by two bits a step, so that each logical field is the physical field R146 names; nothing
but the unit's output changes (R147). -/
def Obligations.BRotRotatesTheFields : Prop :=
  ∀ (s : State) (b : BlendInfo) (r : Rot), ∃ b' : BlendInfo,
    exec (.bRot b r) s = .next { s with ports := { s.ports with bRot := b' } } ∧
      b' = b.rotateLeft (2 * r.toNat) ∧
      (r = 0#2 → b' = b) ∧
      (r = 1#2 → brOf b' = trOf b ∧ trOf b' = tlOf b ∧ blOf b' = brOf b ∧ tlOf b' = blOf b) ∧
      (r = 2#2 → brOf b' = tlOf b ∧ trOf b' = blOf b ∧ blOf b' = trOf b ∧ tlOf b' = brOf b) ∧
      (r = 3#2 → brOf b' = blOf b ∧ trOf b' = brOf b ∧ blOf b' = tlOf b ∧ tlOf b' = trOf b)

/-! ### Corner-classification engine (42_corner_classifier.md) -/

/-- The flat test: no corner is marked, and nothing but the signals of CLASSIFY changes. In the last column and in the
last row the clamped kernel is flat (R161). -/
def Obligations.FlatKernelClassifiesNothing : Prop :=
  (∀ s : State,
    (s.k4.f = s.k4.g ∧ s.k4.j = s.k4.k) ∨ (s.k4.f = s.k4.j ∧ s.k4.g = s.k4.k) → ∃ t,
      exec .classify s = .next t ∧
        t = { s with sig := { s.sig with
          flat := true, jg := t.sig.jg, fk := t.sig.fk, dom := t.sig.dom
          bf := 0#2, bg := 0#2, bj := 0#2, bk := 0#2 } }) ∧
    ∀ s : State, s.pos.x.toNat + 1 = s.run.w.toNat ∨ s.pos.y.toNat + 1 = s.run.h.toNat → ∃ t u,
      exec .k4Load s = .next t ∧ exec .classify t = .next u ∧
        u.sig.bf = 0#2 ∧ u.sig.bg = 0#2 ∧ u.sig.bj = 0#2 ∧ u.sig.bk = 0#2

/-- A kernel that is not flat: the two gradient sums, which 21 bits hold; the smaller one decides the pair of corners,
3.6 times it against the larger decides the strength, the guards decide each corner; equal sums mark nothing. Nothing
but the signals of CLASSIFY changes (R160, R162 to R167). -/
def Obligations.ClassifyFollowsTheSmallerGradient : Prop :=
  ∀ s : State,
    ¬((s.k4.f = s.k4.g ∧ s.k4.j = s.k4.k) ∨ (s.k4.f = s.k4.j ∧ s.k4.g = s.k4.k)) → ∃ t,
      exec .classify s = .next t ∧
        t = { s with sig := { s.sig with
          flat := false
          jg := t.sig.jg
          fk := t.sig.fk
          dom := t.sig.dom
          bf := t.sig.bf
          bg := t.sig.bg
          bj := t.sig.bj
          bk := t.sig.bk } } ∧
        let k := s.k4
        let d := distance (cstRead hw s)
        let jg := d k.i k.f + d k.f k.c + d k.n k.k + d k.k k.h + 4 * d k.j k.g
        let fk := d k.e k.j + d k.j k.o + d k.b k.g + d k.g k.l + 4 * d k.f k.k
        t.sig.jg.toNat = jg ∧ t.sig.fk.toNat = fk ∧
          (jg < fk →
            t.sig.dom = decide (18 * jg < 5 * fk) ∧
              t.sig.bf = (if k.f ≠ k.g ∧ k.f ≠ k.j then (if 18 * jg < 5 * fk then 2#2 else 1#2) else 0#2) ∧
              t.sig.bk = (if k.k ≠ k.j ∧ k.k ≠ k.g then (if 18 * jg < 5 * fk then 2#2 else 1#2) else 0#2) ∧
              t.sig.bg = 0#2 ∧ t.sig.bj = 0#2) ∧
          (fk < jg →
            t.sig.dom = decide (18 * fk < 5 * jg) ∧
              t.sig.bj = (if k.j ≠ k.f ∧ k.j ≠ k.k then (if 18 * fk < 5 * jg then 2#2 else 1#2) else 0#2) ∧
              t.sig.bg = (if k.g ≠ k.f ∧ k.g ≠ k.k then (if 18 * fk < 5 * jg then 2#2 else 1#2) else 0#2) ∧
              t.sig.bf = 0#2 ∧ t.sig.bk = 0#2) ∧
          (jg = fk → t.sig.bf = 0#2 ∧ t.sig.bg = 0#2 ∧ t.sig.bj = 0#2 ∧ t.sig.bk = 0#2)

/-- The four properties of R168: one diagonal at most, one strength at most, a marked f differs from both its
neighbours, and the left-right mirror of a kernel has the mirrored results and, where it is not flat, the two gradient
sums exchanged. -/
def Obligations.ClassifyMarksOneDiagonal : Prop :=
  ∀ s : State, ∃ t u,
    exec .classify s = .next t ∧
      exec .classify { s with k4 :=
        { b := s.k4.c, c := s.k4.b, e := s.k4.h, f := s.k4.g, g := s.k4.f, h := s.k4.e, i := s.k4.l, j := s.k4.k,
          k := s.k4.j, l := s.k4.i, n := s.k4.o, o := s.k4.n } } = .next u ∧
      (t.sig.bf ≠ 0#2 ∨ t.sig.bk ≠ 0#2 → t.sig.bg = 0#2 ∧ t.sig.bj = 0#2) ∧
      (t.sig.bf ≠ 0#2 → t.sig.bk ≠ 0#2 → t.sig.bf = t.sig.bk) ∧
      (t.sig.bg ≠ 0#2 → t.sig.bj ≠ 0#2 → t.sig.bg = t.sig.bj) ∧
      (t.sig.bf ≠ 0#2 → s.k4.f ≠ s.k4.g ∧ s.k4.f ≠ s.k4.j) ∧
      u.sig.bf = t.sig.bg ∧ u.sig.bg = t.sig.bf ∧ u.sig.bj = t.sig.bk ∧ u.sig.bk = t.sig.bj ∧
      u.sig.flat = t.sig.flat ∧ (t.sig.flat = false → u.sig.jg = t.sig.fk ∧ u.sig.fk = t.sig.jg)

/-! ### Blend-state shift register (43_blend_pipeline.md) -/

/-- RELAY at column x: BXY takes BROW[x] with bf in its bottom-right field; BROW[x] takes the old CARRY with bj in its
top-right field; BROW[x + 1], if x + 1 is below the width, takes bg in its bottom-left field; CARRY is bk in the
top-left field alone; every other slot and every other register is as before (R181). The width is the running
command's, sampled at its acceptance (46_driver.md R290). -/
def Obligations.RelayWritesInOrder : Prop :=
  ∀ (s : State) (bf bg bj bk : BlendType), s.blend.brow.wf = true → ∃ brow : Memory 8,
    let x := s.pos.x.toNat
    exec (.relay bf bg bj bk) s = .next { s with blend :=
        { bxy := packBlend (blOf (s.blend.brow.read x)) bf (trOf (s.blend.brow.read x)) (tlOf (s.blend.brow.read x))
          brow := brow
          carry := packBlend 0#2 0#2 0#2 bk } } ∧
      brow.wf = true ∧
      ∀ c : Nat, brow.read c =
        if c = x then packBlend (blOf s.blend.carry) (brOf s.blend.carry) bj (tlOf s.blend.carry)
        else if c = x + 1 ∧ c < s.run.w.toNat then
          packBlend bg (brOf (s.blend.brow.read c)) (trOf (s.blend.brow.read c)) (tlOf (s.blend.brow.read c))
        else s.blend.brow.read c

/-- In a scan, COLSTEP latches in BXY the byte made of the four classifications around the pixel (R188), and BROW and
CARRY hold what 10_state.md R27 and R28 say, before every COLSTEP from the first. -/
def Obligations.RelayDeliversFourClassifications : Prop :=
  (∀ s : State, 1 ≤ s.run.w.toNat → s.pos = ⟨0, 0⟩ → (∀ c, c < s.run.w.toNat → s.blend.brow.read c = 0#8) →
    s.RelayHolds hw) ∧
    ∀ s : State, s.ScanInRange hw → s.pos.y.toNat < s.run.h.toNat → s.blend.brow.wf = true → s.RelayHolds hw → ∃ t,
      exec .colStep s = .next t ∧
        t.blend.bxy = packBlend
          (if 1 ≤ s.pos.x.toNat then (cornersAt hw s (s.pos.x.toNat - 1) s.pos.y.toNat).g else 0#2)
          (cornersAt hw s s.pos.x.toNat s.pos.y.toNat).f
          (if 1 ≤ s.pos.y.toNat then (cornersAt hw s s.pos.x.toNat (s.pos.y.toNat - 1)).j else 0#2)
          (if 1 ≤ s.pos.x.toNat ∧ 1 ≤ s.pos.y.toNat then
            (cornersAt hw s (s.pos.x.toNat - 1) (s.pos.y.toNat - 1)).k else 0#2) ∧
        t.blend.brow.wf = true ∧ t.RelayHolds hw

/-- The COLSTEP of the last pixel leaves BROW below the width and CARRY at 0 (46_driver.md R292 (f)). -/
def Obligations.LastPixelLeavesTheRelayEmpty : Prop :=
  ∀ s : State, s.ScanInRange hw → s.pos.x.toNat + 1 = s.run.w.toNat → s.pos.y.toNat + 1 = s.run.h.toNat →
    s.blend.brow.wf = true → s.RelayHolds hw → ∃ t,
      exec .colStep s = .next t ∧ t.blend.carry = 0#8 ∧ ∀ c, c < s.run.w.toNat → t.blend.brow.read c = 0#8

/-! ### Per-scale pixel-blender (44_pixel_scaler.md, 45_blend_tables_3_to_6.md) -/

/-- INTERP: each channel is the weighted average rounded down, lies between the two channels, and is theirs when they
are equal; alpha is 0; nothing but the unit's output changes (R203). -/
def Obligations.InterpIsTheWeightedAverage : Prop :=
  ∀ (s : State) (col dst : Pixel) (n m : BitVec 7), ∃ p : Pixel,
    exec (.interp col dst n m) s = .next { s with ports := { s.ports with interp := p } } ∧
      ((Instr.interp col dst n m).wf = true →
        alphaOf p = 0#8 ∧
          ∀ channel ∈ [redOf, greenOf, blueOf],
            (channel p).toNat =
                ((channel col).toNat * n.toNat + (channel dst).toNat * (m.toNat - n.toNat)) / m.toNat ∧
              min (channel col).toNat (channel dst).toNat ≤ (channel p).toNat ∧
              (channel p).toNat ≤ max (channel col).toNat (channel dst).toNat)

/-- The five patterns at scale 2: which sub-cell takes which weight of the reference colour, through the rotation step
in progress, and that every other sub-cell and register is as before (R216 to R220). The offsets are the spec's from
general knowledge: log 8. -/
def Obligations.ScaleTwoPatterns : Prop :=
  ∀ (s : State) (p : Pattern), s.tables.rot = .built → s.run.n = 2#4 → ∃ b : Block,
    let at2 : Block → Nat → Nat → Pixel := fun blk i j =>
      blk.cell (rotN 2 s.sig.rot.toNat (i, j)).1 (rotN 2 s.sig.rot.toNat (i, j)).2
    exec (patternInstr p) s = .next { s with oblk := b } ∧
      at2 b 0 0 = at2 s.oblk 0 0 ∧
      at2 b 0 1 = (match p with
        | .corner | .diag | .shallow => at2 s.oblk 0 1
        | .steep | .both => mixPixel s.px (at2 s.oblk 0 1) 1 4) ∧
      at2 b 1 0 = (match p with
        | .corner | .diag | .steep => at2 s.oblk 1 0
        | .shallow | .both => mixPixel s.px (at2 s.oblk 1 0) 1 4) ∧
      at2 b 1 1 = (match p with
        | .corner => mixPixel s.px (at2 s.oblk 1 1) 21 100
        | .diag => mixPixel s.px (at2 s.oblk 1 1) 1 2
        | .shallow | .steep => mixPixel s.px (at2 s.oblk 1 1) 3 4
        | .both => mixPixel s.px (at2 s.oblk 1 1) 5 6) ∧
      ∀ i j, i < 8 → j < 8 → 2 ≤ i ∨ 2 ≤ j → b.cell i j = s.oblk.cell i j

/-- Applying a pattern of any legal table at any supported scale: the sub-cell each entry names through ROTOFF takes
the entry's weight of PX over what it held, every other sub-cell is as before (R205, 45_blend_tables_3_to_6.md R242,
R248). The five operations apply this hardware's table; they change nothing but OBLK, and at a scale with no table
nothing at all (log 22). Legal is R242's (a) to (c): log 36. -/
def Obligations.PatternsBlendTheirSubcells : Prop :=
  (∀ (P : Params) (s : State) (p : Pattern), legalParams P = true → s.tables.rot = .built →
    P.supports s.run.n = true →
    let n := s.run.n.toNat
    let r := s.sig.rot.toNat
    let t := patternOp P p s
    t = { s with oblk := t.oblk } ∧
      (∀ e ∈ P.pattab n p,
        let q := rotN n r (e.row, e.col)
        t.oblk.cell q.1 q.2 = (match e.weight with
          | .copy => s.px
          | .mix a b => mixPixel s.px (s.oblk.cell q.1 q.2) a b)) ∧
      ∀ i j, i < 8 → j < 8 → (∀ e ∈ P.pattab n p, rotN n r (e.row, e.col) ≠ (i, j)) →
        t.oblk.cell i j = s.oblk.cell i j) ∧
    ∀ s : State,
      exec .patCorner s = .next (patternOp hw .corner s) ∧
        exec .patDiag s = .next (patternOp hw .diag s) ∧
        exec .patShallow s = .next (patternOp hw .shallow s) ∧
        exec .patSteep s = .next (patternOp hw .steep s) ∧
        exec .patBoth s = .next (patternOp hw .both s) ∧
        (legalScale s.run.n = false → ∀ p, patternOp hw p s = s)

/-- This hardware's pattern tables are legal, and STEEP is the mirror image of SHALLOW, the other three their own mirror
images (45_blend_tables_3_to_6.md R242). The entries for N = 3 to 6 are unaudited defaults: log 9. Legal is R242's (a)
to (c): log 36. -/
def Obligations.PatternTablesAreLegal : Prop :=
  pattabLegal hw = true ∧
    ∀ n ∈ [2, 3, 4, 5, 6],
      let mirror : List Entry → List Entry := List.map fun e => ⟨e.col, e.row, e.weight⟩
      (mirror (hw.pattab n .shallow)).isPerm (hw.pattab n .steep) = true ∧
        (mirror (hw.pattab n .corner)).isPerm (hw.pattab n .corner) = true ∧
        (mirror (hw.pattab n .diag)).isPerm (hw.pattab n .diag) = true ∧
        (mirror (hw.pattab n .both)).isPerm (hw.pattab n .both) = true

/-- SCALEPIX of a rotation step whose bottom-right field is None leaves OBLK, PX and everything but the transient
signals as they are, and as many of the four steps blend as the byte has fields that are not None (R206). With a byte of
0 no step blends, so the blend gate is a pure shortcut. -/
def Obligations.ScalePixWithoutAFieldDoesNothing : Prop :=
  (∀ (s : State) (n : Scale) (r : Rot), brOf (s.blend.bxy.rotateLeft (2 * r.toNat)) = 0#2 ∨ s.blend.bxy = 0#8 → ∃ t,
    exec (.scalePix n r) s = .next t ∧ t = { s with sig := t.sig }) ∧
    ∀ b : BlendInfo,
      ([0#2, 1#2, 2#2, 3#2] : List Rot).countP (fun r => brOf (b.rotateLeft (2 * r.toNat)) != 0#2) =
        [blOf b, brOf b, trOf b, tlOf b].countP fun t => t != 0#2

/-- SCALEPIX of a marked rotation step: the line decision, the reference colour, the two line kinds and the pattern
they select, which is then walked with PX over OBLK; every other register is as before (R202, R207 to R212). -/
def Obligations.ScalePixSelectsAndBlends : Prop :=
  ∀ (s : State) (n : Scale) (r : Rot),
    let b := s.blend.bxy.rotateLeft (2 * r.toNat)
    let k : KName → Pixel := kernelRead s.k3 r
    let d : Pixel → Pixel → Nat := distance (cstRead hw s)
    brOf b ≠ 0#2 → ∃ t,
      exec (.scalePix n r) s = .next t ∧
        t = { s with
          px := if d (k .e) (k .f) ≤ d (k .e) (k .h) then k .f else k .h
          sig := { s.sig with line := t.sig.line, shallow := t.sig.shallow, steep := t.sig.steep, rot := t.sig.rot }
          oblk := t.oblk } ∧
        (t.sig.line = true ↔
          2 ≤ (brOf b).toNat ∨
            ¬(trOf b ≠ 0#2 ∧ 900 ≤ d (k .e) (k .g)) ∧ ¬(blOf b ≠ 0#2 ∧ 900 ≤ d (k .e) (k .c)) ∧
              ¬(d (k .g) (k .h) < 900 ∧ d (k .h) (k .i) < 900 ∧ d (k .i) (k .f) < 900 ∧ d (k .f) (k .c) < 900 ∧
                900 ≤ d (k .e) (k .i))) ∧
        (t.sig.shallow = true ↔
          t.sig.line = true ∧ 11 * d (k .f) (k .g) ≤ 5 * d (k .h) (k .c) ∧ k .e ≠ k .g ∧ k .d ≠ k .g) ∧
        (t.sig.steep = true ↔
          t.sig.line = true ∧ 11 * d (k .h) (k .c) ≤ 5 * d (k .f) (k .g) ∧ k .e ≠ k .c ∧ k .b ≠ k .c) ∧
        t.oblk = blendList (rotOffset hw s n.toNat r.toNat) t.px
          (hw.pattab n.toNat
            (if t.sig.line then
              (if t.sig.shallow then (if t.sig.steep then .both else .shallow)
                else (if t.sig.steep then .steep else .diag))
            else .corner)) s.oblk

/-- What SCALEPIX does not do: it writes no sub-cell outside the N x N block, changes no kernel and no blend register,
and neither reads nor writes DST (R213). -/
def Obligations.ScalePixStaysInItsBlock : Prop :=
  ∀ (s : State) (n : Scale) (r : Rot) (m : Memory 32), ∃ t,
    exec (.scalePix n r) s = .next t ∧
      t = { s with px := t.px, sig := t.sig, oblk := t.oblk } ∧
      exec (.scalePix n r) { s with dst := m } = .next { t with dst := m } ∧
      (s.tables.rot = .built → legalScale n = true →
        ∀ i j, i < 8 → j < 8 → n.toNat ≤ i ∨ n.toNat ≤ j → t.oblk.cell i j = s.oblk.cell i j)

/-- Every sub-cell after SCALEPIX is what it was, or PX whole, or has alpha 0 and each channel between PX's and the one
it held (R223 (c)). -/
def Obligations.BlendedPixelsLieBetween : Prop :=
  ∀ (s : State) (n : Scale) (r : Rot), s.tables.rot = .built → legalScale n = true → ∃ t,
    exec (.scalePix n r) s = .next t ∧
      ∀ i j, i < 8 → j < 8 →
        let new := t.oblk.cell i j
        let old := s.oblk.cell i j
        new = old ∨ new = t.px ∨
          (alphaOf new = 0#8 ∧
            ∀ channel ∈ [redOf, greenOf, blueOf],
              min (channel t.px).toNat (channel old).toNat ≤ (channel new).toNat ∧
                (channel new).toNat ≤ max (channel t.px).toNat (channel old).toNat)

/-! ### Address generator, output multiplexer, per-column step (46_driver.md) -/

/-- CLAMP: each coordinate is clamped on its own into the image, on signed integers; nothing but the unit's outputs
changes (R261). Width and height are the running command's, sampled at its acceptance (R290). -/
def Obligations.ClampReplicatesTheEdges : Prop :=
  ∀ (s : State) (x y : Coord) (dx dy : Offset), ∃ x' y' : HostWord,
    exec (.clamp x y dx dy) s = .next { s with ports := { s.ports with clampX := x', clampY := y' } } ∧
      (1 ≤ s.run.w.toNat →
        (x'.toNat : Int) = min (max ((x.toNat : Int) + offsetInt dx) 0) ((s.run.w.toNat : Int) - 1) ∧
          x'.toNat < s.run.w.toNat) ∧
      (1 ≤ s.run.h.toNat →
        (y'.toNat : Int) = min (max ((y.toNat : Int) + offsetInt dy) 0) ((s.run.h.toNat : Int) - 1) ∧
          y'.toNat < s.run.h.toNat)

/-- K4LOAD: the twelve clamped reads of R264, at element y'·w + x' of SRC (20_memory.md R61), every one of them inside
the image (20_memory.md R62); nothing but K4 changes. -/
def Obligations.K4LoadReadsTwelvePixels : Prop :=
  ∀ s : State,
    let a : Int → Int → Nat := fun dx dy =>
      (min (max ((s.pos.y.toNat : Int) + dy) 0) ((s.run.h.toNat : Int) - 1)).toNat * s.run.w.toNat +
        (min (max ((s.pos.x.toNat : Int) + dx) 0) ((s.run.w.toNat : Int) - 1)).toNat
    exec .k4Load s = .next { s with k4 :=
        { b := s.src.read (a 0 (-1)), c := s.src.read (a 1 (-1))
          e := s.src.read (a (-1) 0), f := s.src.read (a 0 0), g := s.src.read (a 1 0), h := s.src.read (a 2 0)
          i := s.src.read (a (-1) 1), j := s.src.read (a 0 1), k := s.src.read (a 1 1), l := s.src.read (a 2 1)
          n := s.src.read (a 0 2), o := s.src.read (a 1 2) } } ∧
      (1 ≤ s.run.w.toNat → 1 ≤ s.run.h.toNat → ∀ dx dy, a dx dy < s.run.w.toNat * s.run.h.toNat)

/-- K3LOAD: the nine clamped reads of R270; eight of them are pixels that K4LOAD at the same position loads under other
names; nothing but K3 changes. -/
def Obligations.K3LoadReadsNinePixels : Prop :=
  ∀ s : State, ∃ t u,
    let a : Int → Int → Nat := fun dx dy =>
      (min (max ((s.pos.y.toNat : Int) + dy) 0) ((s.run.h.toNat : Int) - 1)).toNat * s.run.w.toNat +
        (min (max ((s.pos.x.toNat : Int) + dx) 0) ((s.run.w.toNat : Int) - 1)).toNat
    exec .k3Load s = .next t ∧ exec .k4Load s = .next u ∧
      t = { s with k3 :=
        { a := s.src.read (a (-1) (-1)), b := s.src.read (a 0 (-1)), c := s.src.read (a 1 (-1))
          d := s.src.read (a (-1) 0), e := s.src.read (a 0 0), f := s.src.read (a 1 0)
          g := s.src.read (a (-1) 1), h := s.src.read (a 0 1), i := s.src.read (a 1 1) } } ∧
      t.k3.b = u.k4.b ∧ t.k3.c = u.k4.c ∧ t.k3.d = u.k4.e ∧ t.k3.e = u.k4.f ∧ t.k3.f = u.k4.g ∧
      t.k3.g = u.k4.i ∧ t.k3.h = u.k4.j ∧ t.k3.i = u.k4.k

/-- FILL: the N x N sub-cells take K4[f] whole, the other sub-cells and every other register are as before (R266). -/
def Obligations.FillCopiesTheSourcePixel : Prop :=
  ∀ s : State, ∃ b : Block,
    exec .fill s = .next { s with oblk := b } ∧
      (s.run.n.toNat ≤ 8 → ∀ i j, i < 8 → j < 8 →
        b.cell i j = if i < s.run.n.toNat ∧ j < s.run.n.toNat then s.k4.f else s.oblk.cell i j)

/-- OUTWR: sub-cell (i, j) is stored at DST element (Y·N + i)·(w·N) + X·N + j, which lies in the output image; every
other element of DST and every register is as before; the blocks of the source pixels tile the output image, each
element in one place (R276). -/
def Obligations.OutWrStoresTheBlock : Prop :=
  ∀ s : State, s.dst.wf = true → ∃ m : Memory 32,
    let n := s.run.n.toNat
    let w := s.run.w.toNat
    let h := s.run.h.toNat
    let a : Nat → Nat → Nat := fun i j => (s.pos.y.toNat * n + i) * (w * n) + s.pos.x.toNat * n + j
    exec .outWr s = .next { s with dst := m } ∧
      m.wf = true ∧
      (s.pos.x.toNat < w → ∀ i j, i < n → j < n → m.read (a i j) = s.oblk.cell i j) ∧
      (s.pos.x.toNat < w → s.pos.y.toNat < h → ∀ i j, i < n → j < n → a i j < w * n * h * n) ∧
      (∀ c, (∀ i j, i < n → j < n → a i j ≠ c) → m.read c = s.dst.read c) ∧
      ∀ c, c < w * n * h * n → ∃ x y i j, x < w ∧ y < h ∧ i < n ∧ j < n ∧ (y * n + i) * (w * n) + x * n + j = c ∧
        ∀ x' y' i' j', x' < w → y' < h → i' < n → j' < n → (y' * n + i') * (w * n) + x' * n + j' = c →
          x' = x ∧ y' = y ∧ i' = i ∧ j' = j

/-- COLSTEP is the eight sub-steps of R280 in their order, each the effect of its own operation: the row start (R281),
K4LOAD, CLASSIFY, RELAY with its results, FILL, behind the whole-byte gate (R272) K3LOAD and SCALEPIX for r = 0, 1, 2,
3 (R282), OUTWR, and the advance (R283). -/
def Obligations.ColStepIsItsEightSubsteps : Prop :=
  ∀ s : State, ∃ s2 s3 s4 s5 s6 s7,
    exec .k4Load (if s.pos.x = 0 then { s with blend := { s.blend with carry := 0#8 } } else s) = .next s2 ∧
      exec .classify s2 = .next s3 ∧
      exec (.relay s3.sig.bf s3.sig.bg s3.sig.bj s3.sig.bk) s3 = .next s4 ∧
      exec .fill s4 = .next s5 ∧
      (s5.blend.bxy = 0#8 → s6 = s5) ∧
      (s5.blend.bxy ≠ 0#8 → ∃ t0 t1 t2 t3,
        exec .k3Load s5 = .next t0 ∧
          exec (.scalePix s.run.n 0#2) t0 = .next t1 ∧ exec (.scalePix s.run.n 1#2) t1 = .next t2 ∧
          exec (.scalePix s.run.n 2#2) t2 = .next t3 ∧ exec (.scalePix s.run.n 3#2) t3 = .next s6) ∧
      exec .outWr s6 = .next s7 ∧
      exec .colStep s = .next { s7 with pos :=
        if s.pos.x.toNat + 1 < s.run.w.toNat then { y := s.pos.y, x := s.pos.x + 1 }
        else { y := s.pos.y + 1, x := 0 } }

/-- COLSTEP in a scan: the position moves to the next pixel in row-major order and never past the end (R283,
10_state.md R24); the tables, host registers, STATUS, sampled operands, SRC and what surrounds the block are as before,
and so is every element of DST outside the pixel's own block. -/
def Obligations.ColStepAdvancesAndKeepsTheRest : Prop :=
  ∀ s : State, s.ScanInRange hw → s.pos.y.toNat < s.run.h.toNat → s.dst.wf = true → ∃ t,
    exec .colStep s = .next t ∧
      t = { s with
        k4 := t.k4
        k3 := t.k3
        px := t.px
        pos := t.pos
        blend := t.blend
        oblk := t.oblk
        sig := t.sig
        dst := t.dst } ∧
      t.ScanInRange hw ∧
      t.pos.y.toNat * s.run.w.toNat + t.pos.x.toNat = s.pos.y.toNat * s.run.w.toNat + s.pos.x.toNat + 1 ∧
      t.dst.wf = true ∧
      ∀ c, (∀ i j, i < s.run.n.toNat → j < s.run.n.toNat →
          (s.pos.y.toNat * s.run.n.toNat + i) * (s.run.w.toNat * s.run.n.toNat) + s.pos.x.toNat * s.run.n.toNat + j
            ≠ c) → t.dst.read c = s.dst.read c

/-! ### Commands (46_driver.md R285 to R290, 60_exceptions.md) -/

/-- INIT_TABLES: ignored by a busy block; ended at once by a dead one; else both tables become valid and DONE and ERR
are cleared; with tbl_ok 0 and no valid CSTAB the rotation table is valid and the command ends with ERR = 4 (R288). -/
def Obligations.InitTablesBuildsBothTables : Prop :=
  ∀ s : State,
    (s.status.busy = true → exec .initTables s = .next s) ∧
      (s.status.busy = false → s.status.err = 4#3 →
        exec .initTables s = .next { s with status := { busy := false, done := false, err := 4#3 } }) ∧
      (s.status.busy = false → s.status.err ≠ 4#3 → s.tables.csValid = true ∨ s.env.tblOk = true →
        exec .initTables s = .next { s with
          status := { busy := false, done := false, err := 0#3 }
          tables :=
            { cst := if s.tables.csValid then s.tables.cst else .built
              rot := if s.tables.rotValid then s.tables.rot else .built
              csValid := true
              rotValid := true } }) ∧
      (s.status.busy = false → s.status.err ≠ 4#3 → s.tables.csValid = false → s.env.tblOk = false →
        exec .initTables s = .next { s with
          status := { busy := false, done := false, err := 4#3 }
          tables := { s.tables with
            rot := if s.tables.rotValid then s.tables.rot else .built
            rotValid := true } })

/-- SCALE_IMAGE on an idle block that is not dead: the first precondition that fails, in the order InvalidDimension,
UnsupportedScale, BufferTooSmall, is recorded, the required capacity being taken without wrap; the command ends with
BUSY and DONE 0 and nothing else changes (60_exceptions.md R301 to R305); on this hardware, and on a block with any
parameters (00_scope.md R6). -/
def Obligations.ScaleImageReportsTheFirstError : Prop :=
  let claim : Params → (Instr → State → Host.Outcome State Fault Refusal) → Prop := fun P run =>
    ∀ s : State, s.status.busy = false → s.status.err ≠ 4#3 →
      let n := s.regs.scale.toNat
      let w := s.regs.width.toNat
      let h := s.regs.height.toNat
      let ended : BitVec 3 → Host.Outcome State Fault Refusal := fun code =>
        .next { s with status := { busy := false, done := false, err := code } }
      (w < 1 ∨ h < 1 ∨ P.maxW < w → run .scaleImage s = ended 1#3) ∧
        (1 ≤ w → 1 ≤ h → w ≤ P.maxW → n < P.minScale ∨ P.maxScale < n → run .scaleImage s = ended 3#3) ∧
        (1 ≤ w → 1 ≤ h → w ≤ P.maxW → P.minScale ≤ n → n ≤ P.maxScale → s.regs.dstCap.toNat < w * n * h * n →
          run .scaleImage s = ended 2#3)
  claim hw exec ∧ ∀ P : Params, claim P (execWith P)

/-- SCALE_IMAGE with its preconditions met: missing tables are built, the operands are sampled, the scan stands at
(0, 0) with CARRY, BXY and BROW below the width at 0, BUSY is 1, DONE and ERR are 0, and no element of DST is written
(R285, R290). The scan itself is the engine's next steps: log 16. When the build fails the command ends with ERR = 4
and no scan (60_exceptions.md R308). On this hardware, and on a block with any parameters (00_scope.md R6). -/
def Obligations.ScaleImageStartsTheScan : Prop :=
  let claim : Params → (Instr → State → Host.Outcome State Fault Refusal) → Prop := fun P run =>
    ∀ s : State, s.status.busy = false → s.status.err ≠ 4#3 → s.blend.brow.wf = true →
      1 ≤ s.regs.width.toNat → s.regs.width.toNat ≤ P.maxW → 1 ≤ s.regs.height.toNat →
      P.minScale ≤ s.regs.scale.toNat → s.regs.scale.toNat ≤ P.maxScale →
      s.regs.width.toNat * s.regs.scale.toNat * s.regs.height.toNat * s.regs.scale.toNat ≤ s.regs.dstCap.toNat →
      (s.tables.csValid = true ∨ s.env.tblOk = true → ∃ brow : Memory 8,
        run .scaleImage s = .next { s with
            status := { busy := true, done := false, err := 0#3 }
            tables :=
              { cst := if s.tables.csValid then s.tables.cst else .built
                rot := if s.tables.rotValid then s.tables.rot else .built
                csValid := true
                rotValid := true }
            pos := { y := 0, x := 0 }
            blend := { bxy := 0#8, brow := brow, carry := 0#8 }
            run := { n := s.regs.scale, w := s.regs.width, h := s.regs.height }
            env := { s.env with tainted := false } } ∧
          brow.wf = true ∧
          ∀ c, brow.read c = if c < s.regs.width.toNat then 0#8 else s.blend.brow.read c) ∧
        (s.tables.csValid = false → s.env.tblOk = false →
          run .scaleImage s = .next { s with
            status := { busy := false, done := false, err := 4#3 }
            tables := { s.tables with
              rot := if s.tables.rotValid then s.tables.rot else .built
              rotValid := true } })
  claim hw exec ∧ ∀ P : Params, claim P (execWith P)

/-- After TableInitFailure both commands are accepted and end at once with no other effect (60_exceptions.md R309). -/
def Obligations.DeadBlockEndsEveryCommand : Prop :=
  ∀ s : State, s.status.busy = false → s.status.err = 4#3 →
    exec .initTables s = .next { s with status := { busy := false, done := false, err := 4#3 } } ∧
      exec .scaleImage s = .next { s with status := { busy := false, done := false, err := 4#3 } }

/-- A command issued while BUSY is 1 is ignored (30_encoding.md R105, 60_exceptions.md R311). -/
def Obligations.BusyBlockIgnoresCommands : Prop :=
  ∀ s : State, s.status.busy = true → exec .initTables s = .next s ∧ exec .scaleImage s = .next s

/-! ### The register file (10_state.md R33 to R38, 30_encoding.md R103) -/

/-- A register write stores the low bits of the value and nothing else; the register then reads as those bits,
zero-extended, and the read changes nothing but the word the host receives (R103). On this hardware and on a block with
any parameters (00_scope.md R6). That DIMBITS is 16 and CAPBITS is 32 on this hardware, the first two clauses, is the
model's choice, not a rule's: R6 leaves both OPEN and only suggests the values (log 6, DESIGN CHOICE). -/
def Obligations.RegistersReadBackTheirLowBits : Prop :=
  let claim : Params → (Instr → State → Host.Outcome State Fault Refusal) → Prop := fun P run =>
    ∀ (s : State) (v : HostWord), ∃ scaled wide high capped : State,
      run (.wrScale v) s = .next scaled ∧ scaled = { s with regs := { s.regs with scale := scaled.regs.scale } } ∧
        scaled.regs.scale.toNat = v.toNat % 2 ^ 4 ∧
        run (.wrWidth v) s = .next wide ∧ wide = { s with regs := { s.regs with width := wide.regs.width } } ∧
        wide.regs.width.toNat = v.toNat % 2 ^ P.dimBits ∧
        run (.wrHeight v) s = .next high ∧ high = { s with regs := { s.regs with height := high.regs.height } } ∧
        high.regs.height.toNat = v.toNat % 2 ^ P.dimBits ∧
        run (.wrDstCap v) s = .next capped ∧ capped = { s with regs := { s.regs with dstCap := capped.regs.dstCap } } ∧
        capped.regs.dstCap.toNat = v.toNat % 2 ^ P.capBits ∧
        run (.rdStatus (.read .scale)) scaled =
          .next { scaled with env := { s.env with hostData := BitVec.ofNat 32 (v.toNat % 2 ^ 4) } } ∧
        run (.rdStatus (.read .width)) wide =
          .next { wide with env := { s.env with hostData := BitVec.ofNat 32 (v.toNat % 2 ^ P.dimBits) } } ∧
        run (.rdStatus (.read .height)) high =
          .next { high with env := { s.env with hostData := BitVec.ofNat 32 (v.toNat % 2 ^ P.dimBits) } } ∧
        run (.rdStatus (.read .dstCap)) capped =
          .next { capped with env := { s.env with hostData := BitVec.ofNat 32 (v.toNat % 2 ^ P.capBits) } }
  hw.dimBits = 16 ∧ hw.capBits = 32 ∧ claim hw exec ∧ ∀ P : Params, claim P (execWith P)

/-- STATUS reads as BUSY, DONE, CS_VALID, ROT_VALID in bits 0 to 3 and ERR in bits 6:4, the other bits 0; the read
changes nothing but the word the host receives (R38). -/
def Obligations.StatusWordHasItsFields : Prop :=
  ∀ s : State, ∃ word : HostWord,
    exec (.rdStatus (.read .status)) s = .next { s with env := { s.env with hostData := word } } ∧
      word.toNat = s.status.busy.toNat + 2 * s.status.done.toNat + 4 * s.tables.csValid.toNat +
        8 * s.tables.rotValid.toNat + 16 * s.status.err.toNat

/-- CMD reads as 0; a write of STATUS changes nothing; a register number of 6 and above reads as 0 and ignores a write
(R33). -/
def Obligations.AbsentRegistersReadZero : Prop :=
  ∀ (s : State) (reg v : HostWord),
    exec (.rdStatus (.read .cmd)) s = .next { s with env := { s.env with hostData := 0#32 } } ∧
      exec (.rdStatus (.writeIgnored v)) s = .next s ∧
      (6 ≤ reg.toNat →
        decode (.rd reg) = .ok (.regNonexistent reg .read) ∧
          decode (.wr reg v) = .ok (.regNonexistent reg (.write v)) ∧
          exec (.regNonexistent reg .read) s = .next { s with env := { s.env with hostData := 0#32 } } ∧
          exec (.regNonexistent reg (.write v)) s = .next s)

/-! ### Reset and hazards (70_reset_and_hazards.md) -/

/-- Reset: the block is idle, the registers, guards, blend state and position are 0 (R330, R331). SRC is not touched,
nor is DST outside what an abandoned command could have written, nor DST at all from idle: R331 says they are not the
block's, and that they keep their contents is log 28 (DEDUCED), what an abandoned command leaves is log 18. tbl_ok keeps
its level, which R308 lets a reset change: log 14 (DESIGN CHOICE). The registers R331 leaves unspecified are not stated
here (log 10). -/
def Obligations.ResetLeavesTheBlockIdle : Prop :=
  ∀ s : State, s.dst.wf = true → ∃ t,
    exec .reset s = .next t ∧
      t.pos = { y := 0, x := 0 } ∧
      t.blend = { bxy := 0#8, brow := [], carry := 0#8 } ∧
      t.tables.csValid = false ∧ t.tables.rotValid = false ∧
      t.regs = { scale := 0, width := 0, height := 0, dstCap := 0 } ∧
      t.status = { busy := false, done := false, err := 0#3 } ∧
      t.src = s.src ∧ t.env.tblOk = s.env.tblOk ∧
      (s.status.busy = false → t.dst = s.dst) ∧
      ∀ c, imageSize s.run ≤ c → t.dst.read c = s.dst.read c

/-- Reset is the only way to clear CS_VALID, ROT_VALID and ERR = 4 (R332, 60_exceptions.md R309). -/
def Obligations.OnlyResetClearsTheGuards : Prop :=
  (∀ s t : State, (∀ slot ∈ s.env.inbox.head?, slot.isReset = false) → step s = .next t →
    (s.tables.csValid = true → t.tables.csValid = true) ∧
      (s.tables.rotValid = true → t.tables.rotValid = true) ∧
      (s.status.err = 4#3 → t.status.err = 4#3)) ∧
    ∀ s : State, ∃ t, exec .reset s = .next t ∧
      t.tables.csValid = false ∧ t.tables.rotValid = false ∧ t.status.err = 0#3

/-- A host write of registers 1 to 4 while a command runs does not reach it: COLSTEP with any contents of those
registers has the same effect (R340, 46_driver.md R290). -/
def Obligations.RegisterWritesDoNotReachTheScan : Prop :=
  ∀ (s : State) (regs : Regs), ∃ t,
    exec .colStep s = .next t ∧
      exec .colStep { s with regs := regs } = .next { t with regs := regs }

/-- The host's own turns (30_encoding.md R108, 20_memory.md R60, R72), which the inbox of log 2 holds. A pixel stored in
SRC or in DST is read back where it was stored and nowhere else, and nothing else changes, except that a store to an
image element while BUSY is remembered (SRC: R340, log 17; DST: log 29). A destination pixel read while the block is
idle is the element; while BUSY it is some word (R72, log 19); that it is the element before the host has read STATUS
too, which R72 and D7 leave unspecified and U9 does not, is the model's choice (log 19, DESIGN CHOICE); the word read is
kept as log 20 says, and a load changes nothing else. `poll` reads STATUS; while BUSY it stays and the engine has its
step (log 2). A reset with a level of tbl_ok (60_exceptions.md R308, log 14) is the reset with that level. -/
def Obligations.HostReachesSourceAndDestination : Prop :=
  (∀ (s : State) (a : BitVec 32) (p : Pixel) (rest : List Slot), s.src.wf = true →
    s.env.inbox = .srcStore a p :: rest → ∃ t,
      step s = .next t ∧
        t = { s with
          src := t.src
          env := { s.env with
            inbox := rest
            tainted := s.env.tainted ||
              (s.status.busy && decide (a.toNat < s.run.w.toNat * s.run.h.toNat)) } } ∧
        t.src.wf = true ∧ ∀ c, t.src.read c = if c = a.toNat then p else s.src.read c) ∧
    (∀ (s : State) (a : BitVec 32) (p : Pixel) (rest : List Slot), s.dst.wf = true →
      s.env.inbox = .dstStore a p :: rest → ∃ t,
        step s = .next t ∧
          t = { s with
            dst := t.dst
            env := { s.env with
              inbox := rest
              tainted := s.env.tainted ||
                (s.status.busy &&
                  decide (a.toNat < s.run.w.toNat * s.run.n.toNat * s.run.h.toNat * s.run.n.toNat)) } } ∧
          t.dst.wf = true ∧ ∀ c, t.dst.read c = if c = a.toNat then p else s.dst.read c) ∧
    (∀ (s : State) (a : BitVec 32) (rest : List Slot), s.env.inbox = .dstLoad a :: rest →
      (s.status.busy = false →
        step s = .next { s with env := { s.env with inbox := rest, hostData := s.dst.read a.toNat } }) ∧
      ∃ t, step s = .next t ∧
        t = { s with env := { s.env with inbox := rest, hostData := t.env.hostData, draws := t.env.draws } }) ∧
    (∀ (s : State) (rest : List Slot), s.env.inbox = .poll :: rest → ∃ u,
      exec (.rdStatus (.read .status)) s = .next u ∧
        (s.status.busy = false → step s = .next { u with env := { u.env with inbox := rest } }) ∧
        (s.status.busy = true → s.pos.y.toNat < s.run.h.toNat → step s = exec .colStep u) ∧
        (s.status.busy = true → s.run.h.toNat ≤ s.pos.y.toNat → s.env.tainted = false →
          step s = .next { u with status := { u.status with busy := false, done := true } })) ∧
    ∀ (s : State) (pin : Bool) (rest : List Slot), s.env.inbox = .resetWithPin pin :: rest →
      step s = exec .reset { s with env := { s.env with inbox := rest, tblOk := pin } } ∧
        ∃ t, step s = .next t ∧ t.env.tblOk = pin ∧ t.status = { busy := false, done := false, err := 0#3 }

/-! ### The whole machine -/

/-- The reset state meets the invariant, of this hardware and of a block with any legal parameters (00_scope.md R6).
The contents its memories and inbox have at reset are log 2, 12. -/
def Obligations.InvariantHoldsAtReset : Prop :=
  State.reset.Inv hw ∧ ∀ P : Params, legalParams P = true → State.reset.Inv P

/-- Every step keeps the invariant, of this hardware and of a block with any legal parameters (00_scope.md R6):
canonical memories, tables built when valid, STATUS sound, a running scan in range, no reserved blend type held, no
register bit above its width, nothing of OBLK beyond MAXSCALE (State.Inv in Safety.lean; 60_exceptions.md R304, R307,
30_encoding.md R92, 10_state.md R24, R27, R29, R32, R36, R37). The canonical form (log 12), the inbox of turns (log 1,
2) and the form in which the sized registers are held (log 35) are the model's. -/
def Obligations.EveryStepKeepsTheInvariant : Prop :=
  let claim : Params → (State → Host.Outcome State Fault Refusal) → Prop := fun P next =>
    ∀ s t : State, s.Inv P → next s = .next t → t.Inv P
  claim hw step ∧ ∀ P : Params, legalParams P = true → claim P (coreWith P).step

/-- Nothing a host can do stops the machine, this hardware or a block with any legal parameters: from every state that
meets the invariant a step answers a next state (60_exceptions.md R307, 00_scope.md R14). What a host can do is a turn
of the inbox that issues no internal selector (log 2, 4). -/
def Obligations.NothingAHostDoesStopsTheMachine : Prop :=
  let claim : Params → (State → Host.Outcome State Fault Refusal) → Prop := fun P next =>
    ∀ s : State, s.Inv P → ∃ t, next s = .next t
  claim hw step ∧ ∀ P : Params, legalParams P = true → claim P (coreWith P).step

/-- Progress, on this hardware and on a block with any legal parameters: left alone, a running command ends with DONE
after one step for each pixel that is left and one more, with the position at (height, 0) (70_reset_and_hazards.md R350,
46_driver.md R283, R290). The one more is the end of the command as a step of its own, which those rules do not give:
log 16 (DEDUCED). -/
def Obligations.RunningCommandEnds : Prop :=
  let claim : Params → (Nat → State → Host.Outcome State Fault Refusal) → Prop := fun P steps =>
    ∀ s : State, s.Inv P → s.status.busy = true → s.env.inbox = [] → ∃ t : State,
      steps (s.run.w.toNat * s.run.h.toNat - (s.pos.y.toNat * s.run.w.toNat + s.pos.x.toNat) + 1) s = .next t ∧
        t.status.busy = false ∧ t.status.done = true ∧ t.status.err = 0#3 ∧
        t.pos.y.toNat = s.run.h.toNat ∧ t.pos.x = 0
  claim hw core.run ∧ ∀ P : Params, legalParams P = true → claim P (coreWith P).run

/-- SCALE_IMAGE as a function, on this hardware and on a block with any legal parameters, so with any legal PATTAB
(00_scope.md R6, 45_blend_tables_3_to_6.md R248), whose blend gate tests every field (GATE_BR_ONLY false,
90_conflicts.md C4): a command whose preconditions hold, left alone, ends with DONE, every output block being the closed
form of R291 over the source image, and no DST element outside the output image, no SRC element and no host register
having changed (R291, 20_memory.md R64). The scan is one step a pixel and the end is one more: log 16 (DEDUCED). -/
def Obligations.ScaleImageComputesTheClosedForm : Prop :=
  let claim : Params → (Instr → State → Host.Outcome State Fault Refusal) →
      (Nat → State → Host.Outcome State Fault Refusal) → Prop := fun P run steps =>
    ∀ s : State, s.Inv P → s.status.busy = false → s.status.err ≠ 4#3 → precondition P s.regs = none →
      s.tables.csValid = true ∨ s.env.tblOk = true → s.env.inbox = [] → ∃ t u : State,
        run .scaleImage s = .next t ∧
          t.run = { n := s.regs.scale, w := s.regs.width, h := s.regs.height } ∧
          t.tables.cst = .built ∧ t.tables.rot = .built ∧ t.src = s.src ∧
          steps (t.run.w.toNat * t.run.h.toNat + 1) t = .next u ∧
          u.status = { busy := false, done := true, err := 0#3 } ∧ u.regs = s.regs ∧ u.src = s.src ∧
          (∀ x y i j, x < t.run.w.toNat → y < t.run.h.toNat → i < t.run.n.toNat → j < t.run.n.toNat →
            u.dst.read ((y * t.run.n.toNat + i) * (t.run.w.toNat * t.run.n.toNat) + x * t.run.n.toNat + j) =
              (outputBlock P t x y).cell i j) ∧
          ∀ c, t.run.w.toNat * t.run.n.toNat * t.run.h.toNat * t.run.n.toNat ≤ c → u.dst.read c = s.dst.read c
  claim hw exec core.run ∧
    ∀ P : Params, legalParams P = true → P.gateBrOnly = false → claim P (execWith P) (coreWith P).run

/-- Determinism, on this hardware and on a block with any legal parameters, so with any legal PATTAB (00_scope.md R6,
45_blend_tables_3_to_6.md R248), whose blend gate tests every field: two commands with the same operands over the same
source image leave the same output image, whatever earlier commands left in the block (R291, R292 (c); 10_state.md R39).
The scan is one step a pixel and the end is one more: log 16 (DEDUCED). -/
def Obligations.SameInputSameImage : Prop :=
  let claim : Params → (Instr → State → Host.Outcome State Fault Refusal) →
      (Nat → State → Host.Outcome State Fault Refusal) → Prop := fun P run steps =>
    ∀ s s' : State, s.Inv P → s'.Inv P → s.status.busy = false → s'.status.busy = false →
      s.status.err ≠ 4#3 → s'.status.err ≠ 4#3 → precondition P s.regs = none → s'.regs = s.regs →
      (s.tables.csValid = true ∨ s.env.tblOk = true) → (s'.tables.csValid = true ∨ s'.env.tblOk = true) →
      s.env.inbox = [] → s'.env.inbox = [] →
      (∀ c, c < s.regs.width.toNat * s.regs.height.toNat → s'.src.read c = s.src.read c) → ∃ t t' u u' : State,
        run .scaleImage s = .next t ∧ run .scaleImage s' = .next t' ∧
          steps (s.regs.width.toNat * s.regs.height.toNat + 1) t = .next u ∧
          steps (s.regs.width.toNat * s.regs.height.toNat + 1) t' = .next u' ∧
          u.status.done = true ∧ u'.status.done = true ∧
          ∀ c, c < s.regs.width.toNat * s.regs.scale.toNat * s.regs.height.toNat * s.regs.scale.toNat →
            u'.dst.read c = u.dst.read c
  claim hw exec core.run ∧
    ∀ P : Params, legalParams P = true → P.gateBrOnly = false → claim P (execWith P) (coreWith P).run

/-- Plain replication, whatever the parameters and so PATTAB (00_scope.md R6, 45_blend_tables_3_to_6.md R248): where
every source pixel is the same, and in an image one pixel high or one pixel wide, each output block is copies of its
source pixel, all 32 bits (R292 (b), (e); 42_corner_classifier.md R161). -/
def Obligations.FlatImagesAreReplicated : Prop :=
  ∀ (P : Params) (s : State) (x y i j : Nat), P.toSizes.legal = true → P.supports s.run.n = true →
    x < s.run.w.toNat → y < s.run.h.toNat → i < s.run.n.toNat → j < s.run.n.toNat →
    ((∃ p, ∀ c, c < s.run.w.toNat * s.run.h.toNat → s.src.read c = p) ∨ s.run.h.toNat = 1 ∨ s.run.w.toNat = 1) →
      (outputBlock P s x y).cell i j = s.src.read (y * s.run.w.toNat + x)

/-- The middle of a scan, on this hardware and on a block with any legal parameters, so with any legal PATTAB
(00_scope.md R6, 45_blend_tables_3_to_6.md R248), whose blend gate tests every field: nothing is scanned at (0, 0), and
where DST holds the closed form of R291 for every pixel scanned before the position, it does so after COLSTEP too, the
pixel of the position now among them; the relay and the range of the scan go on, and every element of DST outside the
pixel's own block is as before, so that each is written once. -/
def Obligations.ColStepKeepsTheImageSoFar : Prop :=
  let claim : Params → (Instr → State → Host.Outcome State Fault Refusal) → Prop := fun P run =>
    ∀ s : State, s.ScanInRange P → s.TablesSound → s.Canonical → s.RelayHolds P → s.OutputHolds P →
      s.pos.y.toNat < s.run.h.toNat → ∃ t,
        run .colStep s = .next t ∧
          t.run = s.run ∧ t.ScanInRange P ∧ t.Canonical ∧ t.RelayHolds P ∧ t.OutputHolds P ∧
          (∀ i j, i < s.run.n.toNat → j < s.run.n.toNat →
            t.dst.read (outIndex s.run.n.toNat s.run.w.toNat s.pos.x.toNat s.pos.y.toNat i j) =
              (outputBlock P s s.pos.x.toNat s.pos.y.toNat).cell i j) ∧
          ∀ c, (∀ i j, i < s.run.n.toNat → j < s.run.n.toNat →
              outIndex s.run.n.toNat s.run.w.toNat s.pos.x.toNat s.pos.y.toNat i j ≠ c) → t.dst.read c = s.dst.read c
  (∀ (P : Params) (s : State), s.pos = { y := 0, x := 0 } → s.OutputHolds P) ∧
    claim hw exec ∧ ∀ P : Params, legalParams P = true → P.gateBrOnly = false → claim P (execWith P)

/-- The parameters are configuration (00_scope.md R6, R13): this hardware's are the values R6 gives or suggests, and
they are legal; with them the block with any parameters is this hardware, operation by operation, turn by turn and issue
by issue. MAXSCALE sizes ROTTAB: on a block of any legal sizes (log 35) the built table has, at its index among the
(MAXSCALE - 1) * 4 * MAXSCALE^2, the rotation of every sub-cell of every supported scale (10_state.md R31, 20_memory.md
R67, 41_rotation_geometry.md R141). With any PATTAB at all, legal or not (45_blend_tables_3_to_6.md R240, R248), an
operation other than a pattern, SCALEPIX and COLSTEP is what it is here. -/
def Obligations.ParametersAreConfiguration : Prop :=
  (hw.minScale = 2 ∧ hw.maxScale = 6 ∧ hw.eqTol2 = 900 ∧ hw.domNum = 18 ∧ hw.domDen = 5 ∧ hw.steepNum = 11 ∧
      hw.steepDen = 5 ∧ hw.centerWeight = 4 ∧ hw.maxW = 4096 ∧ hw.dimBits = 16 ∧ hw.capBits = 32 ∧
      hw.gateBrOnly = false ∧ legalParams hw = true) ∧
    (∀ (i : Instr) (s : State), execWith hw i s = exec i s) ∧
    (∀ s : State, (coreWith hw).step s = step s) ∧
    (∀ e : Issue, decodeFor hw.toSizes e = decode e) ∧
    (∀ (P : Params) (s : State) (n r i j : Nat), P.toSizes.legal = true → s.tables.rot = .built →
      P.minScale ≤ n → n ≤ P.maxScale → r < 4 → i < n → j < n →
        let index := ((n - 2) * 4 + r) * P.maxScale ^ 2 + i * P.maxScale + j
        index < (P.maxScale - 1) * 4 * P.maxScale ^ 2 ∧
          rotRead P s index = BitVec.ofNat 3 (rotN n r (i, j)).1 ++ BitVec.ofNat 3 (rotN n r (i, j)).2) ∧
    withTable hw.pattab = hw ∧
    ∀ (tab : Nat → Pattern → List Entry) (i : Instr) (s : State), readsTable i = false →
      execWith (withTable tab) i s = exec i s

end
end

