-- ==== Sys2Proof/Laws/Block.lean ====
section
/-! SUPPORT. The laws of OBLK: a sub-cell after a write, a fill, a pattern list. -/

namespace Sys2Proof.Machine

/-- A sub-cell position of OBLK. -/
def inBlock (p : Nat × Nat) : Prop := p.1 < 8 ∧ p.2 < 8

theorem cellIndex_lt {i j : Nat} (hi : i < 8) (hj : j < 8) : cellIndex i j < Config.blockCells := by
  unfold cellIndex
  simp only [Config.scaleLimit, Config.blockCells]
  omega

theorem cellIndex_inj {i j i' j' : Nat} (hj : j < 8) (hj' : j' < 8) (h : cellIndex i j = cellIndex i' j') :
    i = i' ∧ j = j' := by
  unfold cellIndex at h
  simp only [Config.scaleLimit] at h
  omega

theorem cell_eq_getElem (b : Block) {i j : Nat} (hi : i < 8) (hj : j < 8) :
    b.cell i j = b[cellIndex i j]'(cellIndex_lt hi hj) := by
  unfold Block.cell
  have h := cellIndex_lt hi hj
  simp [Vector.getD, h]

/-- A sub-cell after a write. -/
theorem cell_put (b : Block) {i j i' j' : Nat} (v : Pixel) (hi : i < 8) (hj : j < 8) (hi' : i' < 8) (hj' : j' < 8) :
    (b.put i j v).cell i' j' = if i' = i ∧ j' = j then v else b.cell i' j' := by
  have h := cellIndex_lt hi hj
  rw [cell_eq_getElem _ hi' hj', cell_eq_getElem _ hi' hj']
  unfold Block.put
  rw [Vector.getElem_setIfInBounds]
  by_cases hc : cellIndex i j = cellIndex i' j'
  · obtain ⟨rfl, rfl⟩ := cellIndex_inj hj hj' hc
    simp
  · have : ¬(i' = i ∧ j' = j) := by rintro ⟨rfl, rfl⟩; exact hc rfl
    simp [hc, this]

/-- The sub-cells of an n x n block are the positions below n. -/
theorem mem_subcells {n : Nat} {c : Nat × Nat} : c ∈ subcells n ↔ c.1 < n ∧ c.2 < n := by
  unfold subcells
  simp only [List.mem_flatMap, List.mem_map, List.mem_range]
  constructor
  · rintro ⟨i, hi, j, hj, rfl⟩
    exact ⟨hi, hj⟩
  · rintro ⟨hi, hj⟩
    exact ⟨c.1, hi, c.2, hj, rfl⟩

theorem cell_fill_list (l : List (Nat × Nat)) (b : Block) (p : Pixel) (hl : ∀ c ∈ l, inBlock c) {i j : Nat}
    (hi : i < 8) (hj : j < 8) :
    (l.foldl (fun b c => b.put c.1 c.2 p) b).cell i j = if (i, j) ∈ l then p else b.cell i j := by
  induction l generalizing b with
  | nil => simp
  | cons c rest ih =>
    have hc := hl c (by simp)
    rw [List.foldl_cons, ih _ (fun d hd => hl d (by simp [hd])), cell_put b p hc.1 hc.2 hi hj]
    by_cases hr : (i, j) ∈ rest
    · simp [hr]
    · by_cases he : i = c.1 ∧ j = c.2
      · obtain ⟨rfl, rfl⟩ := he; simp
      · have : ¬((i, j) = c) := by rintro rfl; exact he ⟨rfl, rfl⟩
        simp [hr, he, this]

/-- FILL: the n x n sub-cells hold p, the others what they held (46_driver.md R266). -/
theorem cell_fillBlock {n : Nat} (hn : n ≤ 8) (p : Pixel) (b : Block) {i j : Nat} (hi : i < 8) (hj : j < 8) :
    (fillBlock n p b).cell i j = if i < n ∧ j < n then p else b.cell i j := by
  unfold fillBlock
  rw [cell_fill_list _ _ _ (fun c hc => by
    have := mem_subcells.mp hc
    exact ⟨by omega, by omega⟩) hi hj]
  simp only [mem_subcells]

/-- A pattern list leaves every sub-cell that no entry of it names (44_pixel_scaler.md R205). -/
theorem cell_blendList_other (offset : Nat → Nat → Nat × Nat) (px : Pixel) (l : List Entry) (b : Block)
    (hl : ∀ e ∈ l, inBlock (offset e.row e.col)) {i j : Nat} (hi : i < 8) (hj : j < 8)
    (ho : ∀ e ∈ l, offset e.row e.col ≠ (i, j)) : (blendList offset px l b).cell i j = b.cell i j := by
  unfold blendList
  induction l generalizing b with
  | nil => rfl
  | cons e rest ih =>
    have he := hl e (by simp)
    have hne : ¬(i = (offset e.row e.col).1 ∧ j = (offset e.row e.col).2) := by
      rintro ⟨rfl, rfl⟩; exact ho e (by simp) rfl
    rw [List.foldl_cons, ih _ (fun d hd => hl d (by simp [hd])) (fun d hd => ho d (by simp [hd]))]
    unfold blendEntry
    rw [cell_put b _ he.1 he.2 hi hj, if_neg hne]

/-- A pattern list that names no sub-cell twice blends each named sub-cell once, from what it held (R100, R205). -/
theorem cell_blendList_named (offset : Nat → Nat → Nat × Nat) (px : Pixel) (l : List Entry) (b : Block)
    (hl : ∀ e ∈ l, inBlock (offset e.row e.col)) (hd : (l.map fun e => offset e.row e.col).Nodup) {e : Entry}
    (he : e ∈ l) {i j : Nat} (hij : offset e.row e.col = (i, j)) :
    (blendList offset px l b).cell i j = weighted px (b.cell i j) e.weight := by
  unfold blendList
  induction l generalizing b with
  | nil => simp at he
  | cons d rest ih =>
    rw [List.map_cons, List.nodup_cons] at hd
    have hb := hl e he
    rw [hij] at hb
    rw [List.foldl_cons]
    rcases List.mem_cons.mp he with rfl | he
    · have hrest : ∀ d ∈ rest, offset d.row d.col ≠ (i, j) := fun d hdm heq =>
        hd.1 (List.mem_map.mpr ⟨d, hdm, by rw [heq, hij]⟩)
      have := cell_blendList_other offset px rest (blendEntry offset px b e)
        (fun d hdm => hl d (by simp [hdm])) hb.1 hb.2 hrest
      unfold blendList at this
      rw [this]
      unfold blendEntry
      rw [hij, cell_put b _ hb.1 hb.2 hb.1 hb.2]
      simp
    · have hne : offset d.row d.col ≠ (i, j) := fun heq =>
        hd.1 (List.mem_map.mpr ⟨e, he, by rw [hij, heq]⟩)
      have hdb := hl d (by simp)
      rw [ih _ (fun c hc => hl c (by simp [hc])) hd.2 he]
      unfold blendEntry
      have hne' : ¬(i = (offset d.row d.col).1 ∧ j = (offset d.row d.col).2) := by
        rintro ⟨rfl, rfl⟩; exact hne rfl
      rw [cell_put b _ hdb.1 hdb.2 hb.1 hb.2, if_neg hne']

end Sys2Proof.Machine
end

