-- ==== Sys2Proof/Laws/Memory.lean ====
section
/-! SUPPORT. The laws of the indexed memories: read after write, and that every operation keeps the canonical form. -/

namespace Sys2Proof.Machine

variable {w : Nat}

theorem Memory.read_nil (a : Nat) : Memory.read ([] : Memory w) a = 0 := rfl

theorem Memory.wfFrom_mono {lo lo' : Nat} {m : Memory w} (h : lo' ≤ lo) (hm : Memory.wfFrom lo m = true) :
    Memory.wfFrom lo' m = true := by
  cases m with
  | nil => rfl
  | cons c rest =>
    simp only [Memory.wfFrom, Bool.and_eq_true, decide_eq_true_eq] at hm ⊢
    exact ⟨⟨by omega, hm.1.2⟩, hm.2⟩

theorem Memory.read_below {lo : Nat} {m : Memory w} (hm : Memory.wfFrom lo m = true) {a : Nat} (h : a < lo) :
    m.read a = 0 := by
  induction m generalizing lo with
  | nil => rfl
  | cons c rest ih =>
    simp only [Memory.wfFrom, Bool.and_eq_true, decide_eq_true_eq] at hm
    have hne : a ≠ c.1 := by omega
    simp only [Memory.read, hne, if_false]
    exact ih hm.2 (by omega)

theorem Memory.wfFrom_write {lo : Nat} {m : Memory w} (hm : Memory.wfFrom lo m = true) {a : Nat} (h : lo ≤ a)
    (v : BitVec w) : Memory.wfFrom lo (m.write a v) = true := by
  induction m generalizing lo with
  | nil =>
    unfold Memory.write
    split
    · rfl
    · rename_i hv
      simpa [Memory.wfFrom, h] using hv
  | cons c rest ih =>
    have hm' := hm
    simp only [Memory.wfFrom, Bool.and_eq_true, decide_eq_true_eq] at hm
    unfold Memory.write
    split
    · split
      · exact hm'
      · simp only [Memory.wfFrom, Bool.and_eq_true, decide_eq_true_eq, bne_iff_ne, ne_eq]
        exact ⟨⟨h, by assumption⟩, ⟨⟨by omega, by simpa using hm.1.2⟩, hm.2⟩⟩
    · split
      · split
        · exact Memory.wfFrom_mono (by omega) hm.2
        · simp only [Memory.wfFrom, Bool.and_eq_true, decide_eq_true_eq, bne_iff_ne, ne_eq]
          refine ⟨⟨h, by assumption⟩, ?_⟩
          have : a = c.1 := by assumption
          simpa [this] using hm.2
      · simp only [Memory.wfFrom, Bool.and_eq_true, decide_eq_true_eq]
        exact ⟨hm.1, ih hm.2 (by omega)⟩

/-- Writing keeps the canonical form. -/
theorem Memory.wf_write {m : Memory w} (hm : m.wf = true) (a : Nat) (v : BitVec w) : (m.write a v).wf = true :=
  Memory.wfFrom_write hm (Nat.zero_le a) v

theorem Memory.read_write_from {lo : Nat} {m : Memory w} (hm : Memory.wfFrom lo m = true) (a : Nat) (v : BitVec w)
    (b : Nat) : (m.write a v).read b = if b = a then v else m.read b := by
  induction m generalizing lo with
  | nil =>
    unfold Memory.write
    split
    · rename_i hv; simp [Memory.read, hv]
    · simp [Memory.read]
  | cons c rest ih =>
    obtain ⟨k, u⟩ := c
    simp only [Memory.wfFrom, Bool.and_eq_true, decide_eq_true_eq] at hm
    have hlow : ∀ {x}, x < k + 1 → Memory.read rest x = 0 := fun hx => Memory.read_below hm.2 hx
    unfold Memory.write
    split
    · rename_i hak
      split
      · rename_i hv
        by_cases hb : b = a
        · subst hb
          have : b ≠ k := by omega
          simp [Memory.read, this, hlow (show b < k + 1 by omega), hv]
        · simp [hb]
      · simp [Memory.read]
    · split
      · rename_i hak
        subst hak
        split
        · rename_i hv
          by_cases hb : b = a
          · subst hb; simp [hlow (show b < b + 1 by omega), hv]
          · simp [Memory.read, hb]
        · by_cases hb : b = a <;> simp [Memory.read, hb]
      · rename_i h1 h2
        simp only [Memory.read]
        by_cases hb : b = k
        · have hne : b ≠ a := by omega
          simp [hb, Ne.symm h2]
        · simp only [hb, if_false]
          exact ih hm.2

/-- Reading after a write: the value written there, every other element as before. -/
theorem Memory.read_write {m : Memory w} (hm : m.wf = true) (a : Nat) (v : BitVec w) (b : Nat) :
    (m.write a v).read b = if b = a then v else m.read b :=
  Memory.read_write_from hm a v b

theorem Memory.wfFrom_filter {lo : Nat} {m : Memory w} (hm : Memory.wfFrom lo m = true) (p : Nat × BitVec w → Bool) :
    Memory.wfFrom lo (m.filter p) = true := by
  induction m generalizing lo with
  | nil => rfl
  | cons c rest ih =>
    simp only [Memory.wfFrom, Bool.and_eq_true, decide_eq_true_eq] at hm
    rw [List.filter_cons]
    split
    · simp only [Memory.wfFrom, Bool.and_eq_true, decide_eq_true_eq]
      exact ⟨hm.1, ih hm.2⟩
    · exact Memory.wfFrom_mono (by omega) (ih hm.2)

/-- Clearing keeps the canonical form. -/
theorem Memory.wf_clearBelow {m : Memory w} (hm : m.wf = true) (n : Nat) : (m.clearBelow n).wf = true :=
  Memory.wfFrom_filter hm _

/-- Reading after clearing: 0 below n, every other element as before. -/
theorem Memory.read_clearBelow (m : Memory w) (n b : Nat) :
    (m.clearBelow n).read b = if b < n then 0 else m.read b := by
  unfold Memory.clearBelow
  induction m with
  | nil => simp [Memory.read]
  | cons c rest ih =>
    rw [List.filter_cons]
    by_cases h : n ≤ c.1
    · simp only [h, decide_true, if_true, Memory.read]
      by_cases hb : b = c.1
      · simp [hb, Nat.not_lt.mpr h]
      · simp [hb, ih]
    · simp only [h, decide_false, Bool.false_eq_true, if_false, ih, Memory.read]
      by_cases hb : b = c.1
      · simp [hb, Nat.lt_of_not_le h]
      · simp [hb]

/-- A fold of writes keeps the canonical form. -/
theorem Memory.wf_foldl_write {α : Type} {m : Memory w} (hm : m.wf = true) (l : List α) (f : α → Nat)
    (g : α → BitVec w) : (l.foldl (fun m x => m.write (f x) (g x)) m).wf = true := by
  induction l generalizing m with
  | nil => exact hm
  | cons x rest ih => exact ih (Memory.wf_write hm _ _)

/-- An element no write of a fold names reads as before. -/
theorem Memory.read_foldl_write_other {α : Type} {m : Memory w} (hm : m.wf = true) (l : List α) (f : α → Nat)
    (g : α → BitVec w) (b : Nat) (hb : ∀ x ∈ l, f x ≠ b) :
    (l.foldl (fun m x => m.write (f x) (g x)) m).read b = m.read b := by
  induction l generalizing m with
  | nil => rfl
  | cons x rest ih =>
    have hx : b ≠ f x := fun h => hb x (by simp) h.symm
    rw [List.foldl_cons, ih (Memory.wf_write hm _ _) (fun y hy => hb y (by simp [hy])), Memory.read_write hm]
    simp [hx]

/-- An element that the writes of a fold name, all with one value, holds that value. -/
theorem Memory.read_foldl_write_named {α : Type} {m : Memory w} (hm : m.wf = true) (l : List α) (f : α → Nat)
    (g : α → BitVec w) (b : Nat) (v : BitVec w) (hex : ∃ x ∈ l, f x = b) (hv : ∀ x ∈ l, f x = b → g x = v) :
    (l.foldl (fun m x => m.write (f x) (g x)) m).read b = v := by
  induction l generalizing m with
  | nil => simp at hex
  | cons x rest ih =>
    rw [List.foldl_cons]
    by_cases hrest : ∃ y ∈ rest, f y = b
    · exact ih (Memory.wf_write hm _ _) hrest (fun y hy => hv y (by simp [hy]))
    · rw [Memory.read_foldl_write_other (Memory.wf_write hm _ _) rest f g b
        (fun y hy h => hrest ⟨y, hy, h⟩), Memory.read_write hm]
      obtain ⟨y, hy, hfy⟩ := hex
      rcases List.mem_cons.mp hy with rfl | hy
      · simp [hfy, hv y (by simp) hfy]
      · exact absurd ⟨y, hy, hfy⟩ hrest

/-- Filling keeps the canonical form. -/
theorem Memory.wf_fillBelow {m : Memory w} (hm : m.wf = true) (n : Nat) (f : Nat → BitVec w) :
    (m.fillBelow n f).wf = true :=
  Memory.wf_foldl_write hm (List.range n) (fun a => a) f

/-- Reading after filling: f below n, every other element as before. -/
theorem Memory.read_fillBelow {m : Memory w} (hm : m.wf = true) (n : Nat) (f : Nat → BitVec w) (b : Nat) :
    (m.fillBelow n f).read b = if b < n then f b else m.read b := by
  unfold Memory.fillBelow
  by_cases h : b < n
  · rw [if_pos h]
    exact Memory.read_foldl_write_named hm _ (fun a => a) f b (f b) ⟨b, by simpa using h, rfl⟩
      (fun x _ hx => by rw [hx])
  · rw [if_neg h]
    exact Memory.read_foldl_write_other hm _ (fun a => a) f b (fun x hx => by
      have := List.mem_range.mp hx
      omega)

theorem Memory.eq_of_read_from {lo : Nat} {m m' : Memory w} (hm : Memory.wfFrom lo m = true)
    (hm' : Memory.wfFrom lo m' = true) (h : ∀ a, m.read a = m'.read a) : m = m' := by
  induction m generalizing lo m' with
  | nil =>
    cases m' with
    | nil => rfl
    | cons c rest =>
      simp only [Memory.wfFrom, Bool.and_eq_true, bne_iff_ne, ne_eq] at hm'
      have := h c.1
      simp only [Memory.read, if_true] at this
      exact absurd this.symm hm'.1.2
  | cons c rest ih =>
    obtain ⟨k, u⟩ := c
    simp only [Memory.wfFrom, Bool.and_eq_true, bne_iff_ne, ne_eq, decide_eq_true_eq] at hm
    cases m' with
    | nil =>
      have := h k
      simp only [Memory.read, if_true] at this
      exact absurd this hm.1.2
    | cons c' rest' =>
      obtain ⟨k', u'⟩ := c'
      simp only [Memory.wfFrom, Bool.and_eq_true, bne_iff_ne, ne_eq, decide_eq_true_eq] at hm'
      have hk : k = k' := by
        rcases Nat.lt_trichotomy k k' with hlt | heq | hgt
        · have := h k
          rw [Memory.read_below (lo := k + 1) (m := (k', u') :: rest')
            (by simp only [Memory.wfFrom, Bool.and_eq_true, bne_iff_ne, ne_eq, decide_eq_true_eq]
                exact ⟨⟨by omega, hm'.1.2⟩, hm'.2⟩) (by omega)] at this
          simp only [Memory.read, if_true] at this
          exact absurd this hm.1.2
        · exact heq
        · have := h k'
          rw [Memory.read_below (lo := k' + 1) (m := (k, u) :: rest)
            (by simp only [Memory.wfFrom, Bool.and_eq_true, bne_iff_ne, ne_eq, decide_eq_true_eq]
                exact ⟨⟨by omega, hm.1.2⟩, hm.2⟩) (by omega)] at this
          simp only [Memory.read, if_true] at this
          exact absurd this.symm hm'.1.2
      subst hk
      have hu : u = u' := by simpa [Memory.read] using h k
      subst hu
      congr 1
      refine ih hm.2 hm'.2 (fun a => ?_)
      by_cases ha : a < k + 1
      · rw [Memory.read_below hm.2 ha, Memory.read_below hm'.2 ha]
      · have hne : a ≠ k := by omega
        simpa [Memory.read, hne] using h a

/-- Memories in canonical form that read alike are equal data. -/
theorem Memory.eq_of_read {m m' : Memory w} (hm : m.wf = true) (hm' : m'.wf = true)
    (h : ∀ a, m.read a = m'.read a) : m = m' :=
  Memory.eq_of_read_from hm hm' h

/-- Every listed element of a memory after a write was listed before or is the one written. -/
theorem Memory.mem_write {m : Memory w} {a : Nat} {v : BitVec w} {c : Nat × BitVec w} (h : c ∈ m.write a v) :
    c = (a, v) ∨ c ∈ m := by
  induction m with
  | nil =>
    unfold Memory.write at h
    split at h <;> simp_all
  | cons k rest ih =>
    unfold Memory.write at h
    split at h
    · split at h
      · exact .inr h
      · rcases List.mem_cons.mp h with h | h
        · exact .inl h
        · exact .inr h
    · split at h
      · split at h
        · exact .inr (List.mem_cons_of_mem _ h)
        · rcases List.mem_cons.mp h with h | h
          · exact .inl h
          · exact .inr (List.mem_cons_of_mem _ h)
      · rcases List.mem_cons.mp h with h | h
        · exact .inr (by rw [h]; exact List.mem_cons_self ..)
        · rcases ih h with h | h
          · exact .inl h
          · exact .inr (List.mem_cons_of_mem _ h)

/-- An element that reads as something else than 0 is listed. -/
theorem Memory.mem_of_read {m : Memory w} {a : Nat} (h : m.read a ≠ 0) : (a, m.read a) ∈ m := by
  induction m with
  | nil => simp [Memory.read] at h
  | cons c rest ih =>
    obtain ⟨k, u⟩ := c
    simp only [Memory.read] at h ⊢
    split
    · rename_i hk; simp [hk]
    · rename_i hk
      simp only [hk, if_false] at h
      exact List.mem_cons_of_mem _ (ih h)

end Sys2Proof.Machine
end

