-- ==== Sys2Proof/Laws/Driver.lean ====
section
/-! SUPPORT. The laws of the address generator, the output multiplexer and the relay. -/

namespace Sys2Proof.Machine

/-! ### CLAMP (46_driver.md R261) -/

/-- A clamped coordinate lies in the image. -/
theorem clampAxis_lt (p : Nat) (d : Int) {size : Nat} (h : 1 ≤ size) : clampAxis p d size < size := by
  unfold clampAxis
  omega

/-- A coordinate whose neighbour lies in the image is not moved. -/
theorem clampAxis_inside {p : Nat} {d : Int} {size : Nat} (h0 : 0 ≤ (p : Int) + d) (h1 : (p : Int) + d < size) :
    (clampAxis p d size : Int) = p + d := by
  unfold clampAxis
  omega

/-- At the last column every offset to the right gives that column again. -/
theorem clampAxis_last {p : Nat} {d : Int} {size : Nat} (hp : p + 1 = size) (hd : 0 ≤ d) :
    clampAxis p d size = p := by
  unfold clampAxis
  omega

/-- Every index S reads lies in the image (20_memory.md R62). -/
theorem srcIndex_lt {w h x y : Nat} (hx : x < w) (hy : y < h) : srcIndex w x y < w * h := by
  unfold srcIndex
  have : (y + 1) * w ≤ h * w := Nat.mul_le_mul_right w (by omega)
  rw [Nat.add_mul, Nat.one_mul] at this
  rw [Nat.mul_comm w h]
  omega

/-! ### OUTWR (R276) -/

/-- The DST index as output row and column (20_memory.md R61). -/
theorem outIndex_eq (n w x y i j : Nat) : outIndex n w x y i j = (y * n + i) * (w * n) + (x * n + j) := by
  unfold outIndex
  omega

theorem outCol_lt {n w x j : Nat} (hx : x < w) (hj : j < n) : x * n + j < w * n := by
  have : (x + 1) * n ≤ w * n := Nat.mul_le_mul_right n (by omega)
  rw [Nat.add_mul, Nat.one_mul] at this
  omega

/-- Every index OUTWR writes lies in the output image (R276). -/
theorem outIndex_lt {n w h x y i j : Nat} (hx : x < w) (hy : y < h) (hi : i < n) (hj : j < n) :
    outIndex n w x y i j < w * n * h * n := by
  have hc := outCol_lt hx hj
  have hr := outCol_lt (x := y) (w := h) hy hi
  have : (y * n + i + 1) * (w * n) ≤ h * n * (w * n) := Nat.mul_le_mul_right _ (by omega)
  rw [Nat.add_mul, Nat.one_mul] at this
  rw [outIndex_eq, show w * n * h * n = h * n * (w * n) by ring]
  omega

/-- Two output positions with one index are one position: the blocks tile the image (R276). -/
theorem outIndex_inj {n w x y i j x' y' i' j' : Nat} (hx : x < w) (hi : i < n) (hj : j < n)
    (hx' : x' < w) (hi' : i' < n) (hj' : j' < n) (h : outIndex n w x y i j = outIndex n w x' y' i' j') :
    x = x' ∧ y = y' ∧ i = i' ∧ j = j' := by
  have hc := outCol_lt hx hj
  have hc' := outCol_lt hx' hj'
  rw [outIndex_eq, outIndex_eq] at h
  have hpos : 0 < w * n := by omega
  have hrow : y * n + i = y' * n + i' := by
    have e1 : ((y * n + i) * (w * n) + (x * n + j)) / (w * n) = y * n + i := by
      rw [Nat.mul_comm, Nat.mul_add_div hpos, Nat.div_eq_of_lt hc, Nat.add_zero]
    have e2 : ((y' * n + i') * (w * n) + (x' * n + j')) / (w * n) = y' * n + i' := by
      rw [Nat.mul_comm, Nat.mul_add_div hpos, Nat.div_eq_of_lt hc', Nat.add_zero]
    rw [← e1, ← e2, h]
  have hcol : x * n + j = x' * n + j' := by
    rw [hrow] at h
    exact Nat.add_left_cancel h
  have split : ∀ {a b c d : Nat}, b < n → d < n → a * n + b = c * n + d → a = c ∧ b = d := by
    intro a b c d hb hd he
    have hn : 0 < n := by omega
    have h1 : (a * n + b) / n = a := by
      rw [Nat.mul_comm, Nat.mul_add_div hn, Nat.div_eq_of_lt hb, Nat.add_zero]
    have h2 : (c * n + d) / n = c := by
      rw [Nat.mul_comm, Nat.mul_add_div hn, Nat.div_eq_of_lt hd, Nat.add_zero]
    have hac : a = c := by rw [← h1, ← h2, he]
    subst hac
    exact ⟨rfl, Nat.add_left_cancel he⟩
  obtain ⟨hy, hi⟩ := split hi hi' hrow
  obtain ⟨hx, hj⟩ := split hj hj' hcol
  exact ⟨hx, hy, hi, hj⟩

/-- Every index of the output image is a position of some block (R276). -/
theorem outIndex_surj {n w h a : Nat} (ha : a < w * n * h * n) :
    ∃ x y i j, x < w ∧ y < h ∧ i < n ∧ j < n ∧ outIndex n w x y i j = a := by
  have ha' : a < h * n * (w * n) := by rw [show h * n * (w * n) = w * n * h * n by ring]; exact ha
  have hwn : 0 < w * n := Nat.pos_of_ne_zero (by rintro h0; simp [h0] at ha')
  have hn : 0 < n := Nat.pos_of_ne_zero (by rintro rfl; simp at hwn)
  refine ⟨a % (w * n) / n, a / (w * n) / n, a / (w * n) % n, a % (w * n) % n, ?_, ?_, Nat.mod_lt _ hn,
    Nat.mod_lt _ hn, ?_⟩
  · exact Nat.div_lt_of_lt_mul (by rw [Nat.mul_comm n w]; exact Nat.mod_lt _ hwn)
  · refine Nat.div_lt_of_lt_mul ?_
    exact Nat.div_lt_of_lt_mul (by rw [show w * n * (n * h) = h * n * (w * n) by ring]; exact ha')
  · rw [outIndex_eq, Nat.div_add_mod', Nat.div_add_mod', Nat.div_add_mod']

/-- OUTWR keeps the canonical form. -/
theorem wf_storeBlock {m : Memory 32} (hm : m.wf = true) (n w x y : Nat) (b : Block) :
    (storeBlock n w x y b m).wf = true :=
  Memory.wf_foldl_write hm _ (fun c : Nat × Nat => outIndex n w x y c.1 c.2) (fun c => b.cell c.1 c.2)

/-- The elements OUTWR writes hold the block (R276). -/
theorem read_storeBlock {m : Memory 32} (hm : m.wf = true) {n w x y i j : Nat} (b : Block) (hx : x < w) (hi : i < n)
    (hj : j < n) : (storeBlock n w x y b m).read (outIndex n w x y i j) = b.cell i j := by
  refine Memory.read_foldl_write_named hm _ (fun c : Nat × Nat => outIndex n w x y c.1 c.2) (fun c => b.cell c.1 c.2) _ _
    ⟨(i, j), mem_subcells.mpr ⟨hi, hj⟩, rfl⟩ (fun c hc he => ?_)
  have hc := mem_subcells.mp hc
  obtain ⟨-, -, h1, h2⟩ := outIndex_inj hx hc.1 hc.2 hx hi hj he
  simp only [h1, h2]

/-- Every other element of DST reads as before (R276). -/
theorem read_storeBlock_other {m : Memory 32} (hm : m.wf = true) {n w x y a : Nat} (b : Block)
    (ha : ∀ i j, i < n → j < n → outIndex n w x y i j ≠ a) : (storeBlock n w x y b m).read a = m.read a := by
  refine Memory.read_foldl_write_other hm _ (fun c : Nat × Nat => outIndex n w x y c.1 c.2) (fun c => b.cell c.1 c.2) _
    (fun c hc => ?_)
  have hc := mem_subcells.mp hc
  exact ha c.1 c.2 hc.1 hc.2

/-! ### RELAY (43_blend_pipeline.md R181) -/

/-- What RELAY makes of BROW: slot x takes the carry with bj merged, slot x + 1, if it is in range, takes bg, every
other slot is as before. -/
theorem read_relayOp {s : State} (hs : s.blend.brow.wf = true) (bf bg bj bk : BlendType) (c : Nat) :
    (relayOp bf bg bj bk s).blend.brow.read c =
      if c = s.pos.x.toNat then setTr s.blend.carry bj
      else if c = s.pos.x.toNat + 1 ∧ c < s.run.w.toNat then setBl (s.blend.brow.read c) bg
      else s.blend.brow.read c := by
  have h1 := Memory.wf_write hs s.pos.x.toNat (setTr s.blend.carry bj)
  unfold relayOp
  simp only
  by_cases hx : s.pos.x.toNat + 1 < s.run.w.toNat
  · rw [if_pos hx, Memory.read_write h1, Memory.read_write hs, Memory.read_write hs]
    by_cases hc : c = s.pos.x.toNat
    · simp [hc]
    · by_cases hc1 : c = s.pos.x.toNat + 1
      · subst hc1; simp [hx]
      · simp [hc, hc1]
  · rw [if_neg hx, Memory.read_write hs]
    by_cases hc : c = s.pos.x.toNat
    · simp [hc]
    · have : ¬(c = s.pos.x.toNat + 1 ∧ c < s.run.w.toNat) := by omega
      simp [hc, this]

/-- RELAY keeps BROW's canonical form. -/
theorem wf_relayOp {s : State} (hs : s.blend.brow.wf = true) (bf bg bj bk : BlendType) :
    (relayOp bf bg bj bk s).blend.brow.wf = true := by
  unfold relayOp
  simp only
  split
  · exact Memory.wf_write (Memory.wf_write hs _ _) _ _
  · exact Memory.wf_write hs _ _

end Sys2Proof.Machine
end

