-- ==== Sys2Proof/Laws/Fields.lean ====
section
/-! SUPPORT. The laws of bit fields: BlendInfo, pixels, table entries, the rotated byte. -/

namespace Sys2Proof.Machine

/-! ### BlendInfo (30_encoding.md R93, R94) -/

theorem tlOf_packBlend (bl br tr tl : BlendType) : tlOf (packBlend bl br tr tl) = tl := by
  revert bl br tr tl; decide

theorem trOf_packBlend (bl br tr tl : BlendType) : trOf (packBlend bl br tr tl) = tr := by
  revert bl br tr tl; decide

theorem brOf_packBlend (bl br tr tl : BlendType) : brOf (packBlend bl br tr tl) = br := by
  revert bl br tr tl; decide

theorem blOf_packBlend (bl br tr tl : BlendType) : blOf (packBlend bl br tr tl) = bl := by
  revert bl br tr tl; decide

/-- A byte is its four fields. -/
theorem packBlend_fields (b : BlendInfo) : packBlend (blOf b) (brOf b) (trOf b) (tlOf b) = b := by
  revert b; decide

/-- Two bytes with the same four fields are equal. -/
theorem blend_ext {b b' : BlendInfo} (htl : tlOf b = tlOf b') (htr : trOf b = trOf b') (hbr : brOf b = brOf b')
    (hbl : blOf b = blOf b') : b = b' := by
  rw [← packBlend_fields b, ← packBlend_fields b', htl, htr, hbr, hbl]

/-- The logical fields of the rotated byte are the physical fields one place on for each quarter turn
(41_rotation_geometry.md R146, R147). -/
theorem fields_rotateBlend_one (b : BlendInfo) :
    brOf (rotateBlend b 1#2) = trOf b ∧ trOf (rotateBlend b 1#2) = tlOf b ∧
      blOf (rotateBlend b 1#2) = brOf b ∧ tlOf (rotateBlend b 1#2) = blOf b := by
  revert b; decide

theorem rotateBlend_zero (b : BlendInfo) : rotateBlend b 0#2 = b := by
  revert b; decide

theorem rotateBlend_two (b : BlendInfo) : rotateBlend b 2#2 = rotateBlend (rotateBlend b 1#2) 1#2 := by
  revert b; decide

theorem rotateBlend_three (b : BlendInfo) : rotateBlend b 3#2 = rotateBlend (rotateBlend b 2#2) 1#2 := by
  revert b; decide

/-- A byte of 0 has no field set at any rotation step. -/
theorem rotateBlend_zero_byte (r : Rot) : rotateBlend 0#8 r = 0#8 := by
  revert r; decide

/-- BROT is the rotation of the byte. -/
theorem rotateBlend_eq_rotateLeft (b : BlendInfo) (r : Rot) : rotateBlend b r = b.rotateLeft (2 * r.toNat) := by
  revert b r
  decide +kernel

theorem setTr_packBlend (bl br tr tl t : BlendType) : setTr (packBlend bl br tr tl) t = packBlend bl br t tl := by
  simp only [setTr, blOf_packBlend, brOf_packBlend, tlOf_packBlend]

theorem setBl_packBlend (bl br tr tl t : BlendType) : setBl (packBlend bl br tr tl) t = packBlend t br tr tl := by
  simp only [setBl, trOf_packBlend, brOf_packBlend, tlOf_packBlend]

theorem setBr_packBlend (bl br tr tl t : BlendType) : setBr (packBlend bl br tr tl) t = packBlend bl t tr tl := by
  simp only [setBr, trOf_packBlend, blOf_packBlend, tlOf_packBlend]

/-! ### ROTTAB entries, pixels and CSTAB entries as numbers (R90, R96, R97) -/

/-- Concatenation as a number. -/
theorem toNat_concat {n m : Nat} (x : BitVec n) (y : BitVec m) : (x ++ y).toNat = x.toNat * 2 ^ m + y.toNat := by
  rw [BitVec.toNat_append, Nat.shiftLeft_eq, Nat.mul_comm, Nat.two_pow_add_eq_or_of_lt y.isLt]

theorem packRot_toNat (row col : Nat) : (packRot row col).toNat = row % 8 * 8 + col % 8 := by
  have h : (packRot row col).toNat = (BitVec.ofNat 3 row).toNat * 2 ^ 3 + (BitVec.ofNat 3 col).toNat :=
    toNat_concat _ _
  simpa using h

theorem rowOf_packRot (row col : Nat) : (rowOf (packRot row col)).toNat = row % 8 := by
  simp only [rowOf, BitVec.extractLsb'_toNat, Nat.shiftRight_eq_div_pow, packRot_toNat]
  omega

theorem colOf_packRot (row col : Nat) : (colOf (packRot row col)).toNat = col % 8 := by
  simp only [colOf, BitVec.extractLsb'_toNat, Nat.shiftRight_eq_div_pow, packRot_toNat]
  omega

theorem packPixel_toNat (a r g b : Channel) :
    (packPixel a r g b).toNat = ((a.toNat * 256 + r.toNat) * 256 + g.toNat) * 256 + b.toNat := by
  have h1 : (packPixel a r g b).toNat = (a ++ r ++ g).toNat * 2 ^ 8 + b.toNat := toNat_concat _ _
  have h2 : (a ++ r ++ g).toNat = (a ++ r).toNat * 2 ^ 8 + g.toNat := toNat_concat _ _
  have h3 : (a ++ r).toNat = a.toNat * 2 ^ 8 + r.toNat := toNat_concat _ _
  rw [h1, h2, h3]
  norm_num

theorem packYcc_toNat (y cb cr : Channel) :
    (packYcc y cb cr).toNat = (y.toNat * 256 + cb.toNat) * 256 + cr.toNat := by
  have h1 : (packYcc y cb cr).toNat = (y ++ cb).toNat * 2 ^ 8 + cr.toNat := toNat_concat _ _
  have h2 : (y ++ cb).toNat = y.toNat * 2 ^ 8 + cb.toNat := toNat_concat _ _
  rw [h1, h2]
  norm_num

theorem alphaOf_packPixel (a r g b : Channel) : alphaOf (packPixel a r g b) = a := by
  apply BitVec.eq_of_toNat_eq
  simp only [alphaOf, BitVec.extractLsb'_toNat, Nat.shiftRight_eq_div_pow, packPixel_toNat]
  have := a.isLt; have := r.isLt; have := g.isLt; have := b.isLt
  omega

theorem redOf_packPixel (a r g b : Channel) : redOf (packPixel a r g b) = r := by
  apply BitVec.eq_of_toNat_eq
  simp only [redOf, BitVec.extractLsb'_toNat, Nat.shiftRight_eq_div_pow, packPixel_toNat]
  have := a.isLt; have := r.isLt; have := g.isLt; have := b.isLt
  omega

theorem greenOf_packPixel (a r g b : Channel) : greenOf (packPixel a r g b) = g := by
  apply BitVec.eq_of_toNat_eq
  simp only [greenOf, BitVec.extractLsb'_toNat, Nat.shiftRight_eq_div_pow, packPixel_toNat]
  have := a.isLt; have := r.isLt; have := g.isLt; have := b.isLt
  omega

theorem blueOf_packPixel (a r g b : Channel) : blueOf (packPixel a r g b) = b := by
  apply BitVec.eq_of_toNat_eq
  simp only [blueOf, BitVec.extractLsb'_toNat, Nat.shiftRight_eq_div_pow, packPixel_toNat]
  have := a.isLt; have := r.isLt; have := g.isLt; have := b.isLt
  omega

theorem lumaOf_packYcc (y cb cr : Channel) : lumaOf (packYcc y cb cr) = y := by
  apply BitVec.eq_of_toNat_eq
  simp only [lumaOf, BitVec.extractLsb'_toNat, Nat.shiftRight_eq_div_pow, packYcc_toNat]
  have := y.isLt; have := cb.isLt; have := cr.isLt
  omega

theorem chromaBlueOf_packYcc (y cb cr : Channel) : chromaBlueOf (packYcc y cb cr) = cb := by
  apply BitVec.eq_of_toNat_eq
  simp only [chromaBlueOf, BitVec.extractLsb'_toNat, Nat.shiftRight_eq_div_pow, packYcc_toNat]
  have := y.isLt; have := cb.isLt; have := cr.isLt
  omega

theorem chromaRedOf_packYcc (y cb cr : Channel) : chromaRedOf (packYcc y cb cr) = cr := by
  apply BitVec.eq_of_toNat_eq
  simp only [chromaRedOf, BitVec.extractLsb'_toNat, Nat.shiftRight_eq_div_pow, packYcc_toNat]
  have := y.isLt; have := cb.isLt; have := cr.isLt
  omega

/-! ### Distances (40_color_metric.md R124, R129) -/

theorem sqDiff_eq (a b : Channel) :
    (sqDiff a b : Int) = ((a.toNat : Int) - (b.toNat : Int)) * ((a.toNat : Int) - (b.toNat : Int)) := by
  unfold sqDiff
  exact Int.toNat_of_nonneg (mul_self_nonneg _)

theorem sqDiff_self (a : Channel) : sqDiff a a = 0 := by simp [sqDiff]

theorem sqDiff_comm (a b : Channel) : sqDiff a b = sqDiff b a := by
  have h : (sqDiff a b : Int) = sqDiff b a := by rw [sqDiff_eq, sqDiff_eq]; ring
  exact_mod_cast h

theorem sqDiff_le (a b : Channel) : sqDiff a b ≤ 65025 := by
  have ha : (a.toNat : Int) < 256 := by exact_mod_cast a.isLt
  have hb : (b.toNat : Int) < 256 := by exact_mod_cast b.isLt
  have h : (sqDiff a b : Int) ≤ 65025 := by
    rw [sqDiff_eq]
    have ha0 : (0 : Int) ≤ a.toNat := Int.natCast_nonneg _
    have hb0 : (0 : Int) ≤ b.toNat := Int.natCast_nonneg _
    nlinarith
  exact_mod_cast h

/-- DIST without its shortcut: the first branch is one only (R124 (a)). -/
theorem distance_eq (T : Rgb → Ycc) (p q : Pixel) :
    distance T p q = sqDiff (lumaOf (T (rgbOf p))) (lumaOf (T (rgbOf q)))
      + sqDiff (chromaBlueOf (T (rgbOf p))) (chromaBlueOf (T (rgbOf q)))
      + sqDiff (chromaRedOf (T (rgbOf p))) (chromaRedOf (T (rgbOf q))) := by
  unfold distance
  split
  · rename_i h
    simp [h, sqDiff_self]
  · rfl

theorem distance_self (T : Rgb → Ycc) (p : Pixel) : distance T p p = 0 := by simp [distance]

theorem distance_comm (T : Rgb → Ycc) (p q : Pixel) : distance T p q = distance T q p := by
  simp only [distance_eq, sqDiff_comm]

/-- No distance exceeds 3 * 255 * 255 (R124). -/
theorem distance_le (T : Rgb → Ycc) (p q : Pixel) : distance T p q ≤ 195075 := by
  rw [distance_eq]
  have := sqDiff_le (lumaOf (T (rgbOf p))) (lumaOf (T (rgbOf q)))
  have := sqDiff_le (chromaBlueOf (T (rgbOf p))) (chromaBlueOf (T (rgbOf q)))
  have := sqDiff_le (chromaRedOf (T (rgbOf p))) (chromaRedOf (T (rgbOf q)))
  omega

/-- The 18-bit output of DIST holds the distance (R124, R129). -/
theorem toNat_distance (T : Rgb → Ycc) (p q : Pixel) :
    (BitVec.ofNat 18 (distance T p q)).toNat = distance T p q := by
  have := distance_le T p q
  rw [BitVec.toNat_ofNat]
  exact Nat.mod_eq_of_lt (by omega)

/-- EQ is the strict comparison alone (R125): its first disjunct is redundant. -/
theorem colorEqual_hw (T : Rgb → Ycc) (p q : Pixel) : colorEqual hw T p q = decide (distance T p q < 900) := by
  unfold colorEqual
  by_cases h : p = q
  · subst h
    simp [distance_self, show hw.eqTol2 = 900 from rfl]
  · rw [beq_eq_false_iff_ne.mpr h, Bool.false_or]
    rfl

/-- The RGB value of a pixel does not depend on its alpha (R126). -/
theorem rgbOf_append (a : Channel) (p : Pixel) : rgbOf (show Pixel from a ++ rgbOf p) = rgbOf p := by
  unfold rgbOf
  apply BitVec.eq_of_toNat_eq
  have h := toNat_concat a (BitVec.extractLsb' 0 24 p)
  simp only [BitVec.extractLsb'_toNat, Nat.shiftRight_zero] at h ⊢
  show (a ++ BitVec.extractLsb' 0 24 p).toNat % _ = _
  rw [h]
  have := a.isLt
  omega

/-! ### Register widths (10_state.md R36, R37) -/

theorem toNat_dimensionBits (P : Params) (v : HostWord) : (dimensionBits P v).toNat = v.toNat % 2 ^ P.dimBits := by
  unfold dimensionBits
  rw [BitVec.toNat_setWidth, BitVec.toNat_setWidth]
  exact Nat.mod_eq_of_lt (Nat.lt_of_le_of_lt (Nat.mod_le _ _) v.isLt)

theorem toNat_capacityBits (P : Params) (v : HostWord) : (capacityBits P v).toNat = v.toNat % 2 ^ P.capBits := by
  unfold capacityBits
  rw [BitVec.toNat_setWidth, BitVec.toNat_setWidth]
  exact Nat.mod_eq_of_lt (Nat.lt_of_le_of_lt (Nat.mod_le _ _) v.isLt)

end Sys2Proof.Machine
end

