-- ==== Sys2Proof/Laws/Corner.lean ====
section
/-! SUPPORT. The laws of CLASSIFY (42_corner_classifier.md). -/

namespace Sys2Proof.Machine

/-- The flat test as equalities (R161). -/
theorem flatKernel_iff (k : Kernel4) :
    flatKernel k = true ↔ (k.f = k.g ∧ k.j = k.k) ∨ (k.f = k.j ∧ k.g = k.k) := by
  simp [flatKernel, identical]

/-- A flat kernel has no marked corner (R161). -/
theorem corners_flat (P : Params) (T : Rgb → Ycc) {k : Kernel4} (h : flatKernel k = true) :
    corners P T k = ⟨0, 0, 0, 0⟩ := by
  simp [corners, h]

theorem strength_legal (d : Bool) : legalType (strength d) = true := by
  cases d <;> rfl

/-- CLASSIFY answers None, Normal or Dominant (30_encoding.md R92). -/
theorem corners_legal (P : Params) (T : Rgb → Ycc) (k : Kernel4) :
    legalType (corners P T k).f = true ∧ legalType (corners P T k).g = true ∧
      legalType (corners P T k).j = true ∧ legalType (corners P T k).k = true := by
  unfold corners
  simp only
  split
  · exact ⟨rfl, rfl, rfl, rfl⟩
  split
  · refine ⟨?_, rfl, rfl, ?_⟩ <;> (dsimp only; split <;> first | exact strength_legal _ | rfl)
  split
  · refine ⟨rfl, ?_, ?_, rfl⟩ <;> (dsimp only; split <;> first | exact strength_legal _ | rfl)
  · exact ⟨rfl, rfl, rfl, rfl⟩

/-- No gradient sum exceeds 8 * 195075 (R167). -/
theorem gradient_le (T : Rgb → Ycc) (k : Kernel4) :
    gradientJg hw T k ≤ 1560600 ∧ gradientFk hw T k ≤ 1560600 := by
  have h := distance_le T
  have hc : hw.centerWeight = 4 := rfl
  simp only [gradientJg, gradientFk, hc]
  have := h k.i k.f; have := h k.f k.c; have := h k.n k.k; have := h k.k k.h; have := h k.j k.g
  have := h k.e k.j; have := h k.j k.o; have := h k.b k.g; have := h k.g k.l; have := h k.f k.k
  omega

/-- In the last column a pixel to the right is the pixel itself (46_driver.md R261). -/
theorem sample_last_column (s : State) {x : Nat} (y : Nat) (d : Offset) (h : x + 1 = s.run.w.toNat) :
    sample s x y .pos1 d = sample s x y .zero d := by
  unfold sample
  rw [clampAxis_last h (by decide), clampAxis_last h (by decide)]

/-- In the last row a pixel below is the pixel itself (46_driver.md R261). -/
theorem sample_last_row (s : State) (x : Nat) {y : Nat} (d : Offset) (h : y + 1 = s.run.h.toNat) :
    sample s x y d .pos1 = sample s x y d .zero := by
  unfold sample
  rw [clampAxis_last h (by decide), clampAxis_last h (by decide)]

/-- The kernel of a pixel of the last column or the last row is flat (R161). -/
theorem flatKernel_edge (s : State) (x y : Nat) (h : x + 1 = s.run.w.toNat ∨ y + 1 = s.run.h.toNat) :
    flatKernel (kernel4At s x y) = true := by
  rw [flatKernel_iff]
  rcases h with h | h
  · left
    simp [kernel4At, sample_last_column s _ _ h]
  · right
    simp [kernel4At, sample_last_row s _ _ h]

/-- No corner of the last column or the last row is marked (R161). -/
theorem cornersAt_edge (P : Params) (s : State) (x y : Nat) (h : x + 1 = s.run.w.toNat ∨ y + 1 = s.run.h.toNat) :
    cornersAt P s x y = ⟨0, 0, 0, 0⟩ :=
  corners_flat _ _ (flatKernel_edge s x y h)

end Sys2Proof.Machine
end

