-- ==== Sys2Proof/Laws/Rotation.lean ====
section
/-! SUPPORT. The laws of the rotation transform and of the table that holds it (41_rotation_geometry.md). -/

namespace Sys2Proof.Machine

/-- The four rotation steps (30_encoding.md R95). -/
theorem rot_cases (r : Rot) : r = 0#2 ∨ r = 1#2 ∨ r = 2#2 ∨ r = 3#2 := by
  revert r
  decide

/-- The closed form of the transform (R140). -/
theorem rotN_closed {n i j : Nat} (hj : j < n) :
    rotN n 0 (i, j) = (i, j) ∧ rotN n 1 (i, j) = (n - 1 - j, i) ∧
      rotN n 2 (i, j) = (n - 1 - i, n - 1 - j) ∧ rotN n 3 (i, j) = (j, n - 1 - i) := by
  have h : n - 1 - (n - 1 - j) = j := by omega
  simp [rotN, rot1, h]

theorem rot1_lt {n : Nat} {p : Nat × Nat} (h : p.1 < n ∧ p.2 < n) : (rot1 n p).1 < n ∧ (rot1 n p).2 < n := by
  unfold rot1
  exact ⟨by simp only; omega, h.1⟩

/-- The transform stays in the grid. -/
theorem rotN_lt {n : Nat} (r : Nat) {p : Nat × Nat} (h : p.1 < n ∧ p.2 < n) :
    (rotN n r p).1 < n ∧ (rotN n r p).2 < n := by
  induction r with
  | zero => exact h
  | succ r ih => exact rot1_lt ih

theorem rot1_inj {n : Nat} {p q : Nat × Nat} (hp : p.2 < n) (hq : q.2 < n) (h : rot1 n p = rot1 n q) : p = q := by
  obtain ⟨a, b⟩ := p
  obtain ⟨c, d⟩ := q
  simp only [rot1, Prod.mk.injEq] at h hp hq ⊢
  omega

/-- The transform of a rotation step is injective on the grid (R142). -/
theorem rotN_inj {n : Nat} (r : Nat) {p q : Nat × Nat} (hp : p.1 < n ∧ p.2 < n) (hq : q.1 < n ∧ q.2 < n)
    (h : rotN n r p = rotN n r q) : p = q := by
  induction r with
  | zero => exact h
  | succ r ih => exact ih (rot1_inj (rotN_lt r hp).2 (rotN_lt r hq).2 h)

/-- What legal sizes are. -/
theorem sizes_legal_iff (z : Sizes) :
    z.legal = true ↔ (2 ≤ z.minScale ∧ z.minScale ≤ z.maxScale ∧ z.maxScale ≤ 8) ∧
      (1 ≤ z.dimBits ∧ z.dimBits ≤ 32) ∧ 1 ≤ z.capBits ∧ z.capBits ≤ 32 := by
  simp only [Sizes.legal, decide_eq_true_eq, Config.scaleLimit, Config.wordBits]
  tauto

@[simp] theorem hw_minScale : hw.minScale = 2 := rfl

@[simp] theorem hw_maxScale : hw.maxScale = 6 := rfl

@[simp] theorem hw_dimBits : hw.dimBits = 16 := rfl

@[simp] theorem hw_capBits : hw.capBits = 32 := rfl

theorem sizes_legal_hw : hw.toSizes.legal = true := by decide

/-- The scales of legal sizes lie between 2 and 8. -/
theorem scale_range {z : Sizes} (h : z.legal = true) {n : Nat} (hn : z.minScale ≤ n ∧ n ≤ z.maxScale) :
    2 ≤ n ∧ n ≤ 8 := by
  have := (sizes_legal_iff z).mp h
  omega

/-- The index of an entry names its scale, rotation step and sub-cell (20_memory.md R67). -/
theorem builtRot_rotIndex {P : Params} (hP : P.toSizes.legal = true) {n r i j : Nat}
    (hn : P.minScale ≤ n ∧ n ≤ P.maxScale) (hr : r < 4) (hi : i < n) (hj : j < n) :
    builtRot P (rotIndex P n r i j) = packRot (rotN n r (i, j)).1 (rotN n r (i, j)).2 := by
  have hz := (sizes_legal_iff P.toSizes).mp hP
  have h2 := scale_range hP hn
  generalize hm : P.maxScale = m at *
  have him : i < m := by omega
  have hjm : j < m := by omega
  have hcell : i * m + j < m * m := by
    have : (i + 1) * m ≤ m * m := Nat.mul_le_mul_right m (by omega)
    rw [Nat.add_mul, Nat.one_mul] at this
    omega
  have hidx : rotIndex P n r i j = ((n - 2) * 4 + r) * (m * m) + (i * m + j) := by
    unfold rotIndex
    rw [hm, Nat.add_assoc]
  have e0 : rotIndex P n r i j / (m * m) = (n - 2) * 4 + r := by
    rw [hidx, Nat.mul_comm, Nat.mul_add_div (by omega), Nat.div_eq_of_lt hcell, Nat.add_zero]
  have e1 : rotIndex P n r i j / m = ((n - 2) * 4 + r) * m + i := by
    rw [hidx, ← Nat.mul_assoc, ← Nat.add_assoc, ← Nat.add_mul, Nat.mul_comm, Nat.mul_add_div (by omega),
      Nat.div_eq_of_lt hjm, Nat.add_zero]
  have e2 : rotIndex P n r i j / m % m = i := by
    rw [e1, Nat.mul_comm, Nat.mul_add_mod, Nat.mod_eq_of_lt him]
  have e3 : rotIndex P n r i j % m = j := by
    rw [hidx, ← Nat.mul_assoc, ← Nat.add_assoc, ← Nat.add_mul, Nat.mul_comm, Nat.mul_add_mod, Nat.mod_eq_of_lt hjm]
  have e4 : ((n - 2) * 4 + r) / 4 + 2 = n := by omega
  have e5 : ((n - 2) * 4 + r) % 4 = r := by omega
  unfold builtRot
  simp only [hm, e0, e2, e3, e4, e5]
  rw [if_pos ⟨hn.1, hn.2, hi, hj⟩]

/-- Every legal entry lies in the table, which has (MAXSCALE - 1) * 4 * MAXSCALE^2 entries (R67, 10_state.md R31). -/
theorem rotIndex_lt {P : Params} {n r i j : Nat} (hn : 2 ≤ n ∧ n ≤ P.maxScale) (hr : r < 4) (hi : i < n) (hj : j < n) :
    rotIndex P n r i j < (P.maxScale - 1) * 4 * (P.maxScale * P.maxScale) := by
  have hcell : i * P.maxScale + j < P.maxScale * P.maxScale := by
    have : (i + 1) * P.maxScale ≤ P.maxScale * P.maxScale := Nat.mul_le_mul_right P.maxScale (by omega)
    rw [Nat.add_mul, Nat.one_mul] at this
    omega
  have : ((n - 2) * 4 + r + 1) * (P.maxScale * P.maxScale) ≤ (P.maxScale - 1) * 4 * (P.maxScale * P.maxScale) :=
    Nat.mul_le_mul_right _ (by omega)
  rw [Nat.add_mul, Nat.one_mul] at this
  unfold rotIndex
  omega

/-- ROTOFF on the built table is the transform (R143). -/
theorem rotOffset_built {P : Params} (hP : P.toSizes.legal = true) {s : State} (hs : s.tables.rot = .built)
    {n r i j : Nat} (hn : P.minScale ≤ n ∧ n ≤ P.maxScale) (hr : r < 4) (hi : i < n) (hj : j < n) :
    rotOffset P s n r i j = rotN n r (i, j) := by
  have hlt := rotN_lt r (p := (i, j)) ⟨hi, hj⟩
  have := scale_range hP hn
  unfold rotOffset rotEntry rotRead
  rw [hs]
  simp only [builtRot_rotIndex hP hn hr hi hj, rowOf_packRot, colOf_packRot]
  ext
  · exact Nat.mod_eq_of_lt (by omega)
  · exact Nat.mod_eq_of_lt (by omega)

end Sys2Proof.Machine
end

