-- ==== Sys2Proof/Laws/Scaler.lean ====
section
/-! SUPPORT. The laws of INTERP, the pattern tables and SCALEPIX (44_pixel_scaler.md, 45_blend_tables_3_to_6.md). -/

namespace Sys2Proof.Machine

/-! ### INTERP (R203) -/

/-- A mixed channel is the floor of the weighted average and lies between the two channels (R203). -/
theorem toNat_mixChannel (c d : Channel) {n m : Nat} (h : n < m) :
    (mixChannel c d n m).toNat = (c.toNat * n + d.toNat * (m - n)) / m ∧
      min c.toNat d.toNat ≤ (mixChannel c d n m).toNat ∧ (mixChannel c d n m).toNat ≤ max c.toNat d.toNat := by
  have hlo : min c.toNat d.toNat ≤ (c.toNat * n + d.toNat * (m - n)) / m := by
    rw [Nat.le_div_iff_mul_le (by omega)]
    have a := Nat.mul_le_mul_right n (Nat.min_le_left c.toNat d.toNat)
    have b := Nat.mul_le_mul_right (m - n) (Nat.min_le_right c.toNat d.toNat)
    have : min c.toNat d.toNat * m = min c.toNat d.toNat * n + min c.toNat d.toNat * (m - n) := by
      rw [← Nat.mul_add]
      congr 1
      omega
    omega
  have hhi : (c.toNat * n + d.toNat * (m - n)) / m ≤ max c.toNat d.toNat := by
    apply Nat.div_le_of_le_mul
    have a := Nat.mul_le_mul_right n (Nat.le_max_left c.toNat d.toNat)
    have b := Nat.mul_le_mul_right (m - n) (Nat.le_max_right c.toNat d.toNat)
    have : m * max c.toNat d.toNat = max c.toNat d.toNat * n + max c.toNat d.toNat * (m - n) := by
      rw [← Nat.mul_add, Nat.mul_comm]
      congr 1
      omega
    omega
  have hv : (mixChannel c d n m).toNat = (c.toNat * n + d.toNat * (m - n)) / m := by
    have := c.isLt
    have := d.isLt
    simp only [mixChannel, BitVec.toNat_ofNat]
    exact Nat.mod_eq_of_lt (by omega)
  rw [hv]
  exact ⟨rfl, hlo, hhi⟩

/-! ### Pattern tables (R242) -/

/-- A scale a block supports. -/
theorem supports_iff (z : Sizes) (n : Scale) : z.supports n = true ↔ z.minScale ≤ n.toNat ∧ n.toNat ≤ z.maxScale := by
  simp [Sizes.supports]

theorem legalScale_iff (n : Scale) : legalScale n = true ↔ 2 ≤ n.toNat ∧ n.toNat ≤ 6 := supports_iff Config.sizes n

theorem params_legal_iff (P : Params) : legalParams P = true ↔ P.toSizes.legal = true ∧ pattabLegal P = true := by
  simp [legalParams]

/-- A legal PATTAB has a legal list for every supported scale and pattern (R242, R248). -/
theorem listLegal_of_pattabLegal {P : Params} (h : pattabLegal P = true) {n : Nat}
    (hn : P.minScale ≤ n ∧ n ≤ P.maxScale) (p : Pattern) : listLegal n (P.pattab n p) = true := by
  simp only [pattabLegal, List.all_eq_true, List.mem_range, Bool.or_eq_true, decide_eq_true_eq] at h
  rcases h n (by omega) with h | h
  · omega
  · exact h p (by cases p <;> decide)

/-- This hardware's parameters are legal. -/
theorem legal_hw : legalParams hw = true := by decide +kernel

theorem pattabLegal_hw : pattabLegal hw = true := ((params_legal_iff hw).mp legal_hw).2

/-- An entry of a legal list names a sub-cell of the grid (R242 (b)). -/
theorem entry_inGrid {n : Nat} {l : List Entry} (h : listLegal n l = true) {e : Entry} (he : e ∈ l) :
    e.row < n ∧ e.col < n := by
  simp only [listLegal, Bool.and_eq_true, List.all_eq_true] at h
  have := h.1 e he
  simp only [entryLegal, Bool.and_eq_true, decide_eq_true_eq] at this
  exact this.1

/-- The weight of an entry of a legal list is COPY or a proper fraction (R242 (b)). -/
theorem entry_weight {n : Nat} {l : List Entry} (h : listLegal n l = true) {e : Entry} (he : e ∈ l) :
    e.weight = .copy ∨ ∃ a b, e.weight = .mix a b ∧ 0 < a ∧ a < b := by
  simp only [listLegal, Bool.and_eq_true, List.all_eq_true] at h
  have := h.1 e he
  simp only [entryLegal, Bool.and_eq_true, decide_eq_true_eq] at this
  cases hw : e.weight with
  | copy => exact .inl rfl
  | mix a b =>
    rw [hw] at this
    simp only [Bool.and_eq_true, decide_eq_true_eq] at this
    exact .inr ⟨a, b, rfl, this.2⟩

/-- The rotated sub-cells of a legal list lie in OBLK. -/
theorem entry_inBlock {n : Nat} (hn : n ≤ 8) (r : Nat) {l : List Entry} (h : listLegal n l = true) {e : Entry}
    (he : e ∈ l) : inBlock (rotN n r (e.row, e.col)) := by
  have := rotN_lt r (p := (e.row, e.col)) (entry_inGrid h he)
  exact ⟨Nat.lt_of_lt_of_le this.1 hn, Nat.lt_of_lt_of_le this.2 hn⟩

/-- A legal list names no physical sub-cell twice (R242 (c), 41_rotation_geometry.md R142). -/
theorem nodup_rotated {n : Nat} (r : Nat) {l : List Entry} (h : listLegal n l = true) :
    (l.map fun e => rotN n r (e.row, e.col)).Nodup := by
  have hin := fun e he => entry_inGrid h (e := e) he
  simp only [listLegal, Bool.and_eq_true, decide_eq_true_eq] at h
  have h2 := h.2
  rw [show (l.map fun e => rotN n r (e.row, e.col)) = (l.map fun e => (e.row, e.col)).map (rotN n r) by simp]
  apply List.Nodup.map_on _ h2
  intro a ha b hb hab
  simp only [List.mem_map] at ha hb
  obtain ⟨e, he, rfl⟩ := ha
  obtain ⟨e', he', rfl⟩ := hb
  exact rotN_inj r (hin e he) (hin e' he') hab

theorem blendList_congr (o o' : Nat → Nat → Nat × Nat) (px : Pixel) (l : List Entry) (b : Block)
    (h : ∀ e ∈ l, o e.row e.col = o' e.row e.col) : blendList o px l b = blendList o' px l b := by
  unfold blendList
  induction l generalizing b with
  | nil => rfl
  | cons e l ih =>
    rw [List.foldl_cons, List.foldl_cons, ih _ (fun e he => h e (by simp [he]))]
    congr 1
    unfold blendEntry
    rw [h e (by simp)]

/-- On the built table a legal list is blended at the rotated sub-cells (R205, 41_rotation_geometry.md R143). -/
theorem applyPattern_built {P : Params} (hP : P.toSizes.legal = true) {s : State} {n r : Nat} {p : Pattern}
    (ht : s.tables.rot = .built) (hn : P.minScale ≤ n ∧ n ≤ P.maxScale) (hr : r < 4)
    (hl : listLegal n (P.pattab n p) = true) :
    applyPattern P n r p s =
      { s with oblk := blendList (fun i j => rotN n r (i, j)) s.px (P.pattab n p) s.oblk } := by
  unfold applyPattern
  congr 1
  apply blendList_congr
  intro e he
  have := entry_inGrid hl he
  exact rotOffset_built hP ht hn hr this.1 this.2

/-! ### SCALEPIX (R202) -/

/-- OBLK after SCALEPIX on the built tables is one rotation step of the blend in closed form. -/
theorem scalePixOp_oblk {P : Params} (hP : legalParams P = true) {s : State} (ht : s.tables.rot = .built)
    {n : Nat} (hn : P.minScale ≤ n ∧ n ≤ P.maxScale) (r : Rot) :
    (scalePixOp P n r s).oblk = blendRotation P (cstRead P s) n s.blend.bxy s.k3 s.oblk r := by
  obtain ⟨hz, hl⟩ := (params_legal_iff P).mp hP
  unfold scalePixOp blendRotation
  simp only
  split
  · rfl
  · rw [applyPattern_built hz (by exact ht) hn r.isLt (listLegal_of_pattabLegal hl hn _)]
    rfl

/-- SCALEPIX writes no sub-cell outside the block of its scale (R213). -/
theorem scalePixOp_outside {P : Params} (hP : legalParams P = true) {s : State} (ht : s.tables.rot = .built)
    {n : Nat} (hn : P.minScale ≤ n ∧ n ≤ P.maxScale) (r : Rot) {i j : Nat} (hi : i < 8) (hj : j < 8)
    (ho : n ≤ i ∨ n ≤ j) : (scalePixOp P n r s).oblk.cell i j = s.oblk.cell i j := by
  obtain ⟨hz, hl⟩ := (params_legal_iff P).mp hP
  rw [scalePixOp_oblk hP ht hn]
  unfold blendRotation
  simp only
  split
  · rfl
  · have hin : ∀ p, ∀ e ∈ P.pattab n p,
        (rotN n r.toNat (e.row, e.col)).1 < n ∧ (rotN n r.toNat (e.row, e.col)).2 < n :=
      fun p e he => rotN_lt _ (entry_inGrid (listLegal_of_pattabLegal hl hn p) he)
    have h8 := (scale_range hz hn).2
    apply cell_blendList_other _ _ _ _ _ hi hj
    · intro e he hij
      have := hin _ e he
      rw [hij] at this
      omega
    · intro e he
      have := hin _ e he
      exact ⟨by omega, by omega⟩

/-- With a byte of 0 a rotation step blends nothing (R206). -/
theorem blendRotation_zero (P : Params) (T : Rgb → Ycc) (n : Nat) (k3 : Kernel3) (b : Block) (r : Rot) :
    blendRotation P T n 0#8 k3 b r = b := by
  unfold blendRotation
  simp only
  rw [if_pos (by rw [rotateBlend_zero_byte]; rfl)]

/-- The pattern PATSEL selects, shallow and steep taken as 0 when line is 0 (30_encoding.md R106). -/
theorem patternOfSel_patSel (line shallow steep : Bool) :
    patternOfSel (patSel line (line && shallow) (line && steep)) =
      if line then
        (if shallow then (if steep then .both else .shallow) else (if steep then .steep else .diag))
      else .corner := by
  revert line shallow steep
  decide

/-- Two blocks that agree on the sub-cells of scale n. -/
def Block.Agree (n : Nat) (b b' : Block) : Prop := ∀ i j, i < n → j < n → b.cell i j = b'.cell i j

theorem agree_put {n : Nat} (hn : n ≤ 8) {b b' : Block} (h : b.Agree n b') {i j : Nat} (hi : i < n) (hj : j < n)
    (v : Pixel) : (b.put i j v).Agree n (b'.put i j v) := by
  intro i' j' hi' hj'
  rw [cell_put b v (by omega) (by omega) (by omega) (by omega),
    cell_put b' v (by omega) (by omega) (by omega) (by omega)]
  split
  · rfl
  · exact h i' j' hi' hj'

theorem agree_blendList {n : Nat} (hn : n ≤ 8) (o : Nat → Nat → Nat × Nat) (px : Pixel) (l : List Entry)
    (hl : ∀ e ∈ l, (o e.row e.col).1 < n ∧ (o e.row e.col).2 < n) {b b' : Block} (h : b.Agree n b') :
    (blendList o px l b).Agree n (blendList o px l b') := by
  unfold blendList
  induction l generalizing b b' with
  | nil => exact h
  | cons e l ih =>
    rw [List.foldl_cons, List.foldl_cons]
    apply ih (fun e he => hl e (by simp [he]))
    have := hl e (by simp)
    unfold blendEntry
    simp only
    rw [h _ _ this.1 this.2]
    exact agree_put hn h this.1 this.2 _

/-- A rotation step reads and writes only the sub-cells of its scale (R213). -/
theorem agree_blendRotation {P : Params} (hP : legalParams P = true) {n : Nat} (hn : P.minScale ≤ n ∧ n ≤ P.maxScale)
    (T : Rgb → Ycc) (bxy : BlendInfo) (k3 : Kernel3) (r : Rot) {b b' : Block} (h : b.Agree n b') :
    (blendRotation P T n bxy k3 b r).Agree n (blendRotation P T n bxy k3 b' r) := by
  obtain ⟨hz, hl⟩ := (params_legal_iff P).mp hP
  unfold blendRotation
  simp only
  split
  · exact h
  · apply agree_blendList (scale_range hz hn).2 _ _ _ _ h
    intro e he
    exact rotN_lt _ (entry_inGrid (listLegal_of_pattabLegal hl hn _) he)

theorem agree_fillBlock {n : Nat} (hn : n ≤ 8) (p : Pixel) (b b' : Block) :
    (fillBlock n p b).Agree n (fillBlock n p b') := by
  intro i j hi hj
  rw [cell_fillBlock hn _ _ (by omega) (by omega), cell_fillBlock hn _ _ (by omega) (by omega), if_pos ⟨hi, hj⟩,
    if_pos ⟨hi, hj⟩]

end Sys2Proof.Machine
end

