-- ==== Sys2Proof/Laws/State.lean ====
section
/-! SUPPORT. For each update of State, the fields it leaves as they were. -/

namespace Sys2Proof.Machine

/-! ### raise -/

@[simp] theorem raise_k4 (e : ErrorName) (s : State) : (raise e s).k4 = s.k4 := rfl
@[simp] theorem raise_k3 (e : ErrorName) (s : State) : (raise e s).k3 = s.k3 := rfl
@[simp] theorem raise_px (e : ErrorName) (s : State) : (raise e s).px = s.px := rfl
@[simp] theorem raise_pos (e : ErrorName) (s : State) : (raise e s).pos = s.pos := rfl
@[simp] theorem raise_blend (e : ErrorName) (s : State) : (raise e s).blend = s.blend := rfl
@[simp] theorem raise_oblk (e : ErrorName) (s : State) : (raise e s).oblk = s.oblk := rfl
@[simp] theorem raise_tables (e : ErrorName) (s : State) : (raise e s).tables = s.tables := rfl
@[simp] theorem raise_regs (e : ErrorName) (s : State) : (raise e s).regs = s.regs := rfl
@[simp] theorem raise_run (e : ErrorName) (s : State) : (raise e s).run = s.run := rfl
@[simp] theorem raise_sig (e : ErrorName) (s : State) : (raise e s).sig = s.sig := rfl
@[simp] theorem raise_ports (e : ErrorName) (s : State) : (raise e s).ports = s.ports := rfl
@[simp] theorem raise_src (e : ErrorName) (s : State) : (raise e s).src = s.src := rfl
@[simp] theorem raise_dst (e : ErrorName) (s : State) : (raise e s).dst = s.dst := rfl
@[simp] theorem raise_env (e : ErrorName) (s : State) : (raise e s).env = s.env := rfl

/-! ### acceptCommand -/

@[simp] theorem acceptCommand_k4 (s : State) : (acceptCommand s).k4 = s.k4 := rfl
@[simp] theorem acceptCommand_k3 (s : State) : (acceptCommand s).k3 = s.k3 := rfl
@[simp] theorem acceptCommand_px (s : State) : (acceptCommand s).px = s.px := rfl
@[simp] theorem acceptCommand_pos (s : State) : (acceptCommand s).pos = s.pos := rfl
@[simp] theorem acceptCommand_blend (s : State) : (acceptCommand s).blend = s.blend := rfl
@[simp] theorem acceptCommand_oblk (s : State) : (acceptCommand s).oblk = s.oblk := rfl
@[simp] theorem acceptCommand_tables (s : State) : (acceptCommand s).tables = s.tables := rfl
@[simp] theorem acceptCommand_regs (s : State) : (acceptCommand s).regs = s.regs := rfl
@[simp] theorem acceptCommand_run (s : State) : (acceptCommand s).run = s.run := rfl
@[simp] theorem acceptCommand_sig (s : State) : (acceptCommand s).sig = s.sig := rfl
@[simp] theorem acceptCommand_ports (s : State) : (acceptCommand s).ports = s.ports := rfl
@[simp] theorem acceptCommand_src (s : State) : (acceptCommand s).src = s.src := rfl
@[simp] theorem acceptCommand_dst (s : State) : (acceptCommand s).dst = s.dst := rfl
@[simp] theorem acceptCommand_env (s : State) : (acceptCommand s).env = s.env := rfl

/-! ### endCommand -/

@[simp] theorem endCommand_k4 (s : State) : (endCommand s).k4 = s.k4 := rfl
@[simp] theorem endCommand_k3 (s : State) : (endCommand s).k3 = s.k3 := rfl
@[simp] theorem endCommand_px (s : State) : (endCommand s).px = s.px := rfl
@[simp] theorem endCommand_pos (s : State) : (endCommand s).pos = s.pos := rfl
@[simp] theorem endCommand_blend (s : State) : (endCommand s).blend = s.blend := rfl
@[simp] theorem endCommand_oblk (s : State) : (endCommand s).oblk = s.oblk := rfl
@[simp] theorem endCommand_tables (s : State) : (endCommand s).tables = s.tables := rfl
@[simp] theorem endCommand_regs (s : State) : (endCommand s).regs = s.regs := rfl
@[simp] theorem endCommand_run (s : State) : (endCommand s).run = s.run := rfl
@[simp] theorem endCommand_sig (s : State) : (endCommand s).sig = s.sig := rfl
@[simp] theorem endCommand_ports (s : State) : (endCommand s).ports = s.ports := rfl
@[simp] theorem endCommand_src (s : State) : (endCommand s).src = s.src := rfl
@[simp] theorem endCommand_dst (s : State) : (endCommand s).dst = s.dst := rfl
@[simp] theorem endCommand_env (s : State) : (endCommand s).env = s.env := rfl

/-! ### drawn -/

@[simp] theorem drawn_k4 (s : State) : (drawn s).k4 = s.k4 := rfl
@[simp] theorem drawn_k3 (s : State) : (drawn s).k3 = s.k3 := rfl
@[simp] theorem drawn_px (s : State) : (drawn s).px = s.px := rfl
@[simp] theorem drawn_pos (s : State) : (drawn s).pos = s.pos := rfl
@[simp] theorem drawn_blend (s : State) : (drawn s).blend = s.blend := rfl
@[simp] theorem drawn_oblk (s : State) : (drawn s).oblk = s.oblk := rfl
@[simp] theorem drawn_tables (s : State) : (drawn s).tables = s.tables := rfl
@[simp] theorem drawn_regs (s : State) : (drawn s).regs = s.regs := rfl
@[simp] theorem drawn_status (s : State) : (drawn s).status = s.status := rfl
@[simp] theorem drawn_run (s : State) : (drawn s).run = s.run := rfl
@[simp] theorem drawn_sig (s : State) : (drawn s).sig = s.sig := rfl
@[simp] theorem drawn_ports (s : State) : (drawn s).ports = s.ports := rfl
@[simp] theorem drawn_src (s : State) : (drawn s).src = s.src := rfl
@[simp] theorem drawn_dst (s : State) : (drawn s).dst = s.dst := rfl

/-! ### deliver -/

@[simp] theorem deliver_k4 (v : HostWord) (s : State) : (deliver v s).k4 = s.k4 := rfl
@[simp] theorem deliver_k3 (v : HostWord) (s : State) : (deliver v s).k3 = s.k3 := rfl
@[simp] theorem deliver_px (v : HostWord) (s : State) : (deliver v s).px = s.px := rfl
@[simp] theorem deliver_pos (v : HostWord) (s : State) : (deliver v s).pos = s.pos := rfl
@[simp] theorem deliver_blend (v : HostWord) (s : State) : (deliver v s).blend = s.blend := rfl
@[simp] theorem deliver_oblk (v : HostWord) (s : State) : (deliver v s).oblk = s.oblk := rfl
@[simp] theorem deliver_tables (v : HostWord) (s : State) : (deliver v s).tables = s.tables := rfl
@[simp] theorem deliver_regs (v : HostWord) (s : State) : (deliver v s).regs = s.regs := rfl
@[simp] theorem deliver_status (v : HostWord) (s : State) : (deliver v s).status = s.status := rfl
@[simp] theorem deliver_run (v : HostWord) (s : State) : (deliver v s).run = s.run := rfl
@[simp] theorem deliver_sig (v : HostWord) (s : State) : (deliver v s).sig = s.sig := rfl
@[simp] theorem deliver_ports (v : HostWord) (s : State) : (deliver v s).ports = s.ports := rfl
@[simp] theorem deliver_src (v : HostWord) (s : State) : (deliver v s).src = s.src := rfl
@[simp] theorem deliver_dst (v : HostWord) (s : State) : (deliver v s).dst = s.dst := rfl

/-! ### takeSlot -/

@[simp] theorem takeSlot_k4 (rest : List Slot) (s : State) : (takeSlot rest s).k4 = s.k4 := rfl
@[simp] theorem takeSlot_k3 (rest : List Slot) (s : State) : (takeSlot rest s).k3 = s.k3 := rfl
@[simp] theorem takeSlot_px (rest : List Slot) (s : State) : (takeSlot rest s).px = s.px := rfl
@[simp] theorem takeSlot_pos (rest : List Slot) (s : State) : (takeSlot rest s).pos = s.pos := rfl
@[simp] theorem takeSlot_blend (rest : List Slot) (s : State) : (takeSlot rest s).blend = s.blend := rfl
@[simp] theorem takeSlot_oblk (rest : List Slot) (s : State) : (takeSlot rest s).oblk = s.oblk := rfl
@[simp] theorem takeSlot_tables (rest : List Slot) (s : State) : (takeSlot rest s).tables = s.tables := rfl
@[simp] theorem takeSlot_regs (rest : List Slot) (s : State) : (takeSlot rest s).regs = s.regs := rfl
@[simp] theorem takeSlot_status (rest : List Slot) (s : State) : (takeSlot rest s).status = s.status := rfl
@[simp] theorem takeSlot_run (rest : List Slot) (s : State) : (takeSlot rest s).run = s.run := rfl
@[simp] theorem takeSlot_sig (rest : List Slot) (s : State) : (takeSlot rest s).sig = s.sig := rfl
@[simp] theorem takeSlot_ports (rest : List Slot) (s : State) : (takeSlot rest s).ports = s.ports := rfl
@[simp] theorem takeSlot_src (rest : List Slot) (s : State) : (takeSlot rest s).src = s.src := rfl
@[simp] theorem takeSlot_dst (rest : List Slot) (s : State) : (takeSlot rest s).dst = s.dst := rfl

/-! ### taint -/

@[simp] theorem taint_k4 (s : State) : (taint s).k4 = s.k4 := rfl
@[simp] theorem taint_k3 (s : State) : (taint s).k3 = s.k3 := rfl
@[simp] theorem taint_px (s : State) : (taint s).px = s.px := rfl
@[simp] theorem taint_pos (s : State) : (taint s).pos = s.pos := rfl
@[simp] theorem taint_blend (s : State) : (taint s).blend = s.blend := rfl
@[simp] theorem taint_oblk (s : State) : (taint s).oblk = s.oblk := rfl
@[simp] theorem taint_tables (s : State) : (taint s).tables = s.tables := rfl
@[simp] theorem taint_regs (s : State) : (taint s).regs = s.regs := rfl
@[simp] theorem taint_status (s : State) : (taint s).status = s.status := rfl
@[simp] theorem taint_run (s : State) : (taint s).run = s.run := rfl
@[simp] theorem taint_sig (s : State) : (taint s).sig = s.sig := rfl
@[simp] theorem taint_ports (s : State) : (taint s).ports = s.ports := rfl
@[simp] theorem taint_src (s : State) : (taint s).src = s.src := rfl
@[simp] theorem taint_dst (s : State) : (taint s).dst = s.dst := rfl

/-! ### scrambleDst -/

@[simp] theorem scrambleDst_k4 (s : State) : (scrambleDst s).k4 = s.k4 := rfl
@[simp] theorem scrambleDst_k3 (s : State) : (scrambleDst s).k3 = s.k3 := rfl
@[simp] theorem scrambleDst_px (s : State) : (scrambleDst s).px = s.px := rfl
@[simp] theorem scrambleDst_pos (s : State) : (scrambleDst s).pos = s.pos := rfl
@[simp] theorem scrambleDst_blend (s : State) : (scrambleDst s).blend = s.blend := rfl
@[simp] theorem scrambleDst_oblk (s : State) : (scrambleDst s).oblk = s.oblk := rfl
@[simp] theorem scrambleDst_tables (s : State) : (scrambleDst s).tables = s.tables := rfl
@[simp] theorem scrambleDst_regs (s : State) : (scrambleDst s).regs = s.regs := rfl
@[simp] theorem scrambleDst_status (s : State) : (scrambleDst s).status = s.status := rfl
@[simp] theorem scrambleDst_run (s : State) : (scrambleDst s).run = s.run := rfl
@[simp] theorem scrambleDst_sig (s : State) : (scrambleDst s).sig = s.sig := rfl
@[simp] theorem scrambleDst_ports (s : State) : (scrambleDst s).ports = s.ports := rfl
@[simp] theorem scrambleDst_src (s : State) : (scrambleDst s).src = s.src := rfl

/-! ### k4LoadOp -/

@[simp] theorem k4LoadOp_k3 (s : State) : (k4LoadOp s).k3 = s.k3 := rfl
@[simp] theorem k4LoadOp_px (s : State) : (k4LoadOp s).px = s.px := rfl
@[simp] theorem k4LoadOp_pos (s : State) : (k4LoadOp s).pos = s.pos := rfl
@[simp] theorem k4LoadOp_blend (s : State) : (k4LoadOp s).blend = s.blend := rfl
@[simp] theorem k4LoadOp_oblk (s : State) : (k4LoadOp s).oblk = s.oblk := rfl
@[simp] theorem k4LoadOp_tables (s : State) : (k4LoadOp s).tables = s.tables := rfl
@[simp] theorem k4LoadOp_regs (s : State) : (k4LoadOp s).regs = s.regs := rfl
@[simp] theorem k4LoadOp_status (s : State) : (k4LoadOp s).status = s.status := rfl
@[simp] theorem k4LoadOp_run (s : State) : (k4LoadOp s).run = s.run := rfl
@[simp] theorem k4LoadOp_sig (s : State) : (k4LoadOp s).sig = s.sig := rfl
@[simp] theorem k4LoadOp_ports (s : State) : (k4LoadOp s).ports = s.ports := rfl
@[simp] theorem k4LoadOp_src (s : State) : (k4LoadOp s).src = s.src := rfl
@[simp] theorem k4LoadOp_dst (s : State) : (k4LoadOp s).dst = s.dst := rfl
@[simp] theorem k4LoadOp_env (s : State) : (k4LoadOp s).env = s.env := rfl

/-! ### k3LoadOp -/

@[simp] theorem k3LoadOp_k4 (s : State) : (k3LoadOp s).k4 = s.k4 := rfl
@[simp] theorem k3LoadOp_px (s : State) : (k3LoadOp s).px = s.px := rfl
@[simp] theorem k3LoadOp_pos (s : State) : (k3LoadOp s).pos = s.pos := rfl
@[simp] theorem k3LoadOp_blend (s : State) : (k3LoadOp s).blend = s.blend := rfl
@[simp] theorem k3LoadOp_oblk (s : State) : (k3LoadOp s).oblk = s.oblk := rfl
@[simp] theorem k3LoadOp_tables (s : State) : (k3LoadOp s).tables = s.tables := rfl
@[simp] theorem k3LoadOp_regs (s : State) : (k3LoadOp s).regs = s.regs := rfl
@[simp] theorem k3LoadOp_status (s : State) : (k3LoadOp s).status = s.status := rfl
@[simp] theorem k3LoadOp_run (s : State) : (k3LoadOp s).run = s.run := rfl
@[simp] theorem k3LoadOp_sig (s : State) : (k3LoadOp s).sig = s.sig := rfl
@[simp] theorem k3LoadOp_ports (s : State) : (k3LoadOp s).ports = s.ports := rfl
@[simp] theorem k3LoadOp_src (s : State) : (k3LoadOp s).src = s.src := rfl
@[simp] theorem k3LoadOp_dst (s : State) : (k3LoadOp s).dst = s.dst := rfl
@[simp] theorem k3LoadOp_env (s : State) : (k3LoadOp s).env = s.env := rfl

/-! ### classifyOp -/

@[simp] theorem classifyOp_k4 (P : Params) (s : State) : (classifyOp P s).k4 = s.k4 := rfl
@[simp] theorem classifyOp_k3 (P : Params) (s : State) : (classifyOp P s).k3 = s.k3 := rfl
@[simp] theorem classifyOp_px (P : Params) (s : State) : (classifyOp P s).px = s.px := rfl
@[simp] theorem classifyOp_pos (P : Params) (s : State) : (classifyOp P s).pos = s.pos := rfl
@[simp] theorem classifyOp_blend (P : Params) (s : State) : (classifyOp P s).blend = s.blend := rfl
@[simp] theorem classifyOp_oblk (P : Params) (s : State) : (classifyOp P s).oblk = s.oblk := rfl
@[simp] theorem classifyOp_tables (P : Params) (s : State) : (classifyOp P s).tables = s.tables := rfl
@[simp] theorem classifyOp_regs (P : Params) (s : State) : (classifyOp P s).regs = s.regs := rfl
@[simp] theorem classifyOp_status (P : Params) (s : State) : (classifyOp P s).status = s.status := rfl
@[simp] theorem classifyOp_run (P : Params) (s : State) : (classifyOp P s).run = s.run := rfl
@[simp] theorem classifyOp_ports (P : Params) (s : State) : (classifyOp P s).ports = s.ports := rfl
@[simp] theorem classifyOp_src (P : Params) (s : State) : (classifyOp P s).src = s.src := rfl
@[simp] theorem classifyOp_dst (P : Params) (s : State) : (classifyOp P s).dst = s.dst := rfl
@[simp] theorem classifyOp_env (P : Params) (s : State) : (classifyOp P s).env = s.env := rfl

/-! ### relayOp -/

@[simp] theorem relayOp_k4 (bf bg bj bk : BlendType) (s : State) : (relayOp bf bg bj bk s).k4 = s.k4 := rfl
@[simp] theorem relayOp_k3 (bf bg bj bk : BlendType) (s : State) : (relayOp bf bg bj bk s).k3 = s.k3 := rfl
@[simp] theorem relayOp_px (bf bg bj bk : BlendType) (s : State) : (relayOp bf bg bj bk s).px = s.px := rfl
@[simp] theorem relayOp_pos (bf bg bj bk : BlendType) (s : State) : (relayOp bf bg bj bk s).pos = s.pos := rfl
@[simp] theorem relayOp_oblk (bf bg bj bk : BlendType) (s : State) : (relayOp bf bg bj bk s).oblk = s.oblk := rfl
@[simp] theorem relayOp_tables (bf bg bj bk : BlendType) (s : State) : (relayOp bf bg bj bk s).tables = s.tables := rfl
@[simp] theorem relayOp_regs (bf bg bj bk : BlendType) (s : State) : (relayOp bf bg bj bk s).regs = s.regs := rfl
@[simp] theorem relayOp_status (bf bg bj bk : BlendType) (s : State) : (relayOp bf bg bj bk s).status = s.status := rfl
@[simp] theorem relayOp_run (bf bg bj bk : BlendType) (s : State) : (relayOp bf bg bj bk s).run = s.run := rfl
@[simp] theorem relayOp_sig (bf bg bj bk : BlendType) (s : State) : (relayOp bf bg bj bk s).sig = s.sig := rfl
@[simp] theorem relayOp_ports (bf bg bj bk : BlendType) (s : State) : (relayOp bf bg bj bk s).ports = s.ports := rfl
@[simp] theorem relayOp_src (bf bg bj bk : BlendType) (s : State) : (relayOp bf bg bj bk s).src = s.src := rfl
@[simp] theorem relayOp_dst (bf bg bj bk : BlendType) (s : State) : (relayOp bf bg bj bk s).dst = s.dst := rfl
@[simp] theorem relayOp_env (bf bg bj bk : BlendType) (s : State) : (relayOp bf bg bj bk s).env = s.env := rfl

/-! ### fillOp -/

@[simp] theorem fillOp_k4 (s : State) : (fillOp s).k4 = s.k4 := rfl
@[simp] theorem fillOp_k3 (s : State) : (fillOp s).k3 = s.k3 := rfl
@[simp] theorem fillOp_px (s : State) : (fillOp s).px = s.px := rfl
@[simp] theorem fillOp_pos (s : State) : (fillOp s).pos = s.pos := rfl
@[simp] theorem fillOp_blend (s : State) : (fillOp s).blend = s.blend := rfl
@[simp] theorem fillOp_tables (s : State) : (fillOp s).tables = s.tables := rfl
@[simp] theorem fillOp_regs (s : State) : (fillOp s).regs = s.regs := rfl
@[simp] theorem fillOp_status (s : State) : (fillOp s).status = s.status := rfl
@[simp] theorem fillOp_run (s : State) : (fillOp s).run = s.run := rfl
@[simp] theorem fillOp_sig (s : State) : (fillOp s).sig = s.sig := rfl
@[simp] theorem fillOp_ports (s : State) : (fillOp s).ports = s.ports := rfl
@[simp] theorem fillOp_src (s : State) : (fillOp s).src = s.src := rfl
@[simp] theorem fillOp_dst (s : State) : (fillOp s).dst = s.dst := rfl
@[simp] theorem fillOp_env (s : State) : (fillOp s).env = s.env := rfl

/-! ### outWrOp -/

@[simp] theorem outWrOp_k4 (s : State) : (outWrOp s).k4 = s.k4 := rfl
@[simp] theorem outWrOp_k3 (s : State) : (outWrOp s).k3 = s.k3 := rfl
@[simp] theorem outWrOp_px (s : State) : (outWrOp s).px = s.px := rfl
@[simp] theorem outWrOp_pos (s : State) : (outWrOp s).pos = s.pos := rfl
@[simp] theorem outWrOp_blend (s : State) : (outWrOp s).blend = s.blend := rfl
@[simp] theorem outWrOp_oblk (s : State) : (outWrOp s).oblk = s.oblk := rfl
@[simp] theorem outWrOp_tables (s : State) : (outWrOp s).tables = s.tables := rfl
@[simp] theorem outWrOp_regs (s : State) : (outWrOp s).regs = s.regs := rfl
@[simp] theorem outWrOp_status (s : State) : (outWrOp s).status = s.status := rfl
@[simp] theorem outWrOp_run (s : State) : (outWrOp s).run = s.run := rfl
@[simp] theorem outWrOp_sig (s : State) : (outWrOp s).sig = s.sig := rfl
@[simp] theorem outWrOp_ports (s : State) : (outWrOp s).ports = s.ports := rfl
@[simp] theorem outWrOp_src (s : State) : (outWrOp s).src = s.src := rfl
@[simp] theorem outWrOp_env (s : State) : (outWrOp s).env = s.env := rfl

/-! ### applyPattern -/

@[simp] theorem applyPattern_k4 (P : Params) (n r : Nat) (p : Pattern) (s : State) : (applyPattern P n r p s).k4 = s.k4 := rfl
@[simp] theorem applyPattern_k3 (P : Params) (n r : Nat) (p : Pattern) (s : State) : (applyPattern P n r p s).k3 = s.k3 := rfl
@[simp] theorem applyPattern_px (P : Params) (n r : Nat) (p : Pattern) (s : State) : (applyPattern P n r p s).px = s.px := rfl
@[simp] theorem applyPattern_pos (P : Params) (n r : Nat) (p : Pattern) (s : State) : (applyPattern P n r p s).pos = s.pos := rfl
@[simp] theorem applyPattern_blend (P : Params) (n r : Nat) (p : Pattern) (s : State) : (applyPattern P n r p s).blend = s.blend := rfl
@[simp] theorem applyPattern_tables (P : Params) (n r : Nat) (p : Pattern) (s : State) : (applyPattern P n r p s).tables = s.tables := rfl
@[simp] theorem applyPattern_regs (P : Params) (n r : Nat) (p : Pattern) (s : State) : (applyPattern P n r p s).regs = s.regs := rfl
@[simp] theorem applyPattern_status (P : Params) (n r : Nat) (p : Pattern) (s : State) : (applyPattern P n r p s).status = s.status := rfl
@[simp] theorem applyPattern_run (P : Params) (n r : Nat) (p : Pattern) (s : State) : (applyPattern P n r p s).run = s.run := rfl
@[simp] theorem applyPattern_sig (P : Params) (n r : Nat) (p : Pattern) (s : State) : (applyPattern P n r p s).sig = s.sig := rfl
@[simp] theorem applyPattern_ports (P : Params) (n r : Nat) (p : Pattern) (s : State) : (applyPattern P n r p s).ports = s.ports := rfl
@[simp] theorem applyPattern_src (P : Params) (n r : Nat) (p : Pattern) (s : State) : (applyPattern P n r p s).src = s.src := rfl
@[simp] theorem applyPattern_dst (P : Params) (n r : Nat) (p : Pattern) (s : State) : (applyPattern P n r p s).dst = s.dst := rfl
@[simp] theorem applyPattern_env (P : Params) (n r : Nat) (p : Pattern) (s : State) : (applyPattern P n r p s).env = s.env := rfl

/-! ### startScan -/

@[simp] theorem startScan_k4 (s : State) : (startScan s).k4 = s.k4 := rfl
@[simp] theorem startScan_k3 (s : State) : (startScan s).k3 = s.k3 := rfl
@[simp] theorem startScan_px (s : State) : (startScan s).px = s.px := rfl
@[simp] theorem startScan_oblk (s : State) : (startScan s).oblk = s.oblk := rfl
@[simp] theorem startScan_tables (s : State) : (startScan s).tables = s.tables := rfl
@[simp] theorem startScan_regs (s : State) : (startScan s).regs = s.regs := rfl
@[simp] theorem startScan_status (s : State) : (startScan s).status = s.status := rfl
@[simp] theorem startScan_sig (s : State) : (startScan s).sig = s.sig := rfl
@[simp] theorem startScan_ports (s : State) : (startScan s).ports = s.ports := rfl
@[simp] theorem startScan_src (s : State) : (startScan s).src = s.src := rfl
@[simp] theorem startScan_dst (s : State) : (startScan s).dst = s.dst := rfl

/-! ### cstBuildOp -/

@[simp] theorem cstBuildOp_k4 (s : State) : (cstBuildOp s).k4 = s.k4 := by
  unfold cstBuildOp; split; · rfl
  · split <;> rfl
@[simp] theorem cstBuildOp_k3 (s : State) : (cstBuildOp s).k3 = s.k3 := by
  unfold cstBuildOp; split; · rfl
  · split <;> rfl
@[simp] theorem cstBuildOp_px (s : State) : (cstBuildOp s).px = s.px := by
  unfold cstBuildOp; split; · rfl
  · split <;> rfl
@[simp] theorem cstBuildOp_pos (s : State) : (cstBuildOp s).pos = s.pos := by
  unfold cstBuildOp; split; · rfl
  · split <;> rfl
@[simp] theorem cstBuildOp_blend (s : State) : (cstBuildOp s).blend = s.blend := by
  unfold cstBuildOp; split; · rfl
  · split <;> rfl
@[simp] theorem cstBuildOp_oblk (s : State) : (cstBuildOp s).oblk = s.oblk := by
  unfold cstBuildOp; split; · rfl
  · split <;> rfl
@[simp] theorem cstBuildOp_regs (s : State) : (cstBuildOp s).regs = s.regs := by
  unfold cstBuildOp; split; · rfl
  · split <;> rfl
@[simp] theorem cstBuildOp_run (s : State) : (cstBuildOp s).run = s.run := by
  unfold cstBuildOp; split; · rfl
  · split <;> rfl
@[simp] theorem cstBuildOp_sig (s : State) : (cstBuildOp s).sig = s.sig := by
  unfold cstBuildOp; split; · rfl
  · split <;> rfl
@[simp] theorem cstBuildOp_ports (s : State) : (cstBuildOp s).ports = s.ports := by
  unfold cstBuildOp; split; · rfl
  · split <;> rfl
@[simp] theorem cstBuildOp_src (s : State) : (cstBuildOp s).src = s.src := by
  unfold cstBuildOp; split; · rfl
  · split <;> rfl
@[simp] theorem cstBuildOp_dst (s : State) : (cstBuildOp s).dst = s.dst := by
  unfold cstBuildOp; split; · rfl
  · split <;> rfl
@[simp] theorem cstBuildOp_env (s : State) : (cstBuildOp s).env = s.env := by
  unfold cstBuildOp; split; · rfl
  · split <;> rfl

/-! ### rotBuildOp -/

@[simp] theorem rotBuildOp_k4 (s : State) : (rotBuildOp s).k4 = s.k4 := by
  unfold rotBuildOp; split <;> rfl
@[simp] theorem rotBuildOp_k3 (s : State) : (rotBuildOp s).k3 = s.k3 := by
  unfold rotBuildOp; split <;> rfl
@[simp] theorem rotBuildOp_px (s : State) : (rotBuildOp s).px = s.px := by
  unfold rotBuildOp; split <;> rfl
@[simp] theorem rotBuildOp_pos (s : State) : (rotBuildOp s).pos = s.pos := by
  unfold rotBuildOp; split <;> rfl
@[simp] theorem rotBuildOp_blend (s : State) : (rotBuildOp s).blend = s.blend := by
  unfold rotBuildOp; split <;> rfl
@[simp] theorem rotBuildOp_oblk (s : State) : (rotBuildOp s).oblk = s.oblk := by
  unfold rotBuildOp; split <;> rfl
@[simp] theorem rotBuildOp_regs (s : State) : (rotBuildOp s).regs = s.regs := by
  unfold rotBuildOp; split <;> rfl
@[simp] theorem rotBuildOp_status (s : State) : (rotBuildOp s).status = s.status := by
  unfold rotBuildOp; split <;> rfl
@[simp] theorem rotBuildOp_run (s : State) : (rotBuildOp s).run = s.run := by
  unfold rotBuildOp; split <;> rfl
@[simp] theorem rotBuildOp_sig (s : State) : (rotBuildOp s).sig = s.sig := by
  unfold rotBuildOp; split <;> rfl
@[simp] theorem rotBuildOp_ports (s : State) : (rotBuildOp s).ports = s.ports := by
  unfold rotBuildOp; split <;> rfl
@[simp] theorem rotBuildOp_src (s : State) : (rotBuildOp s).src = s.src := by
  unfold rotBuildOp; split <;> rfl
@[simp] theorem rotBuildOp_dst (s : State) : (rotBuildOp s).dst = s.dst := by
  unfold rotBuildOp; split <;> rfl
@[simp] theorem rotBuildOp_env (s : State) : (rotBuildOp s).env = s.env := by
  unfold rotBuildOp; split <;> rfl

/-! ### rowStartOp -/

@[simp] theorem rowStartOp_k4 (s : State) : (rowStartOp s).k4 = s.k4 := by
  unfold rowStartOp; split <;> rfl
@[simp] theorem rowStartOp_k3 (s : State) : (rowStartOp s).k3 = s.k3 := by
  unfold rowStartOp; split <;> rfl
@[simp] theorem rowStartOp_px (s : State) : (rowStartOp s).px = s.px := by
  unfold rowStartOp; split <;> rfl
@[simp] theorem rowStartOp_pos (s : State) : (rowStartOp s).pos = s.pos := by
  unfold rowStartOp; split <;> rfl
@[simp] theorem rowStartOp_oblk (s : State) : (rowStartOp s).oblk = s.oblk := by
  unfold rowStartOp; split <;> rfl
@[simp] theorem rowStartOp_tables (s : State) : (rowStartOp s).tables = s.tables := by
  unfold rowStartOp; split <;> rfl
@[simp] theorem rowStartOp_regs (s : State) : (rowStartOp s).regs = s.regs := by
  unfold rowStartOp; split <;> rfl
@[simp] theorem rowStartOp_status (s : State) : (rowStartOp s).status = s.status := by
  unfold rowStartOp; split <;> rfl
@[simp] theorem rowStartOp_run (s : State) : (rowStartOp s).run = s.run := by
  unfold rowStartOp; split <;> rfl
@[simp] theorem rowStartOp_sig (s : State) : (rowStartOp s).sig = s.sig := by
  unfold rowStartOp; split <;> rfl
@[simp] theorem rowStartOp_ports (s : State) : (rowStartOp s).ports = s.ports := by
  unfold rowStartOp; split <;> rfl
@[simp] theorem rowStartOp_src (s : State) : (rowStartOp s).src = s.src := by
  unfold rowStartOp; split <;> rfl
@[simp] theorem rowStartOp_dst (s : State) : (rowStartOp s).dst = s.dst := by
  unfold rowStartOp; split <;> rfl
@[simp] theorem rowStartOp_env (s : State) : (rowStartOp s).env = s.env := by
  unfold rowStartOp; split <;> rfl

/-! ### advanceOp -/

@[simp] theorem advanceOp_k4 (s : State) : (advanceOp s).k4 = s.k4 := by
  unfold advanceOp; split <;> rfl
@[simp] theorem advanceOp_k3 (s : State) : (advanceOp s).k3 = s.k3 := by
  unfold advanceOp; split <;> rfl
@[simp] theorem advanceOp_px (s : State) : (advanceOp s).px = s.px := by
  unfold advanceOp; split <;> rfl
@[simp] theorem advanceOp_blend (s : State) : (advanceOp s).blend = s.blend := by
  unfold advanceOp; split <;> rfl
@[simp] theorem advanceOp_oblk (s : State) : (advanceOp s).oblk = s.oblk := by
  unfold advanceOp; split <;> rfl
@[simp] theorem advanceOp_tables (s : State) : (advanceOp s).tables = s.tables := by
  unfold advanceOp; split <;> rfl
@[simp] theorem advanceOp_regs (s : State) : (advanceOp s).regs = s.regs := by
  unfold advanceOp; split <;> rfl
@[simp] theorem advanceOp_status (s : State) : (advanceOp s).status = s.status := by
  unfold advanceOp; split <;> rfl
@[simp] theorem advanceOp_run (s : State) : (advanceOp s).run = s.run := by
  unfold advanceOp; split <;> rfl
@[simp] theorem advanceOp_sig (s : State) : (advanceOp s).sig = s.sig := by
  unfold advanceOp; split <;> rfl
@[simp] theorem advanceOp_ports (s : State) : (advanceOp s).ports = s.ports := by
  unfold advanceOp; split <;> rfl
@[simp] theorem advanceOp_src (s : State) : (advanceOp s).src = s.src := by
  unfold advanceOp; split <;> rfl
@[simp] theorem advanceOp_dst (s : State) : (advanceOp s).dst = s.dst := by
  unfold advanceOp; split <;> rfl
@[simp] theorem advanceOp_env (s : State) : (advanceOp s).env = s.env := by
  unfold advanceOp; split <;> rfl

/-! ### scalePixOp -/

@[simp] theorem scalePixOp_k4 (P : Params) (n : Nat) (r : Rot) (s : State) : (scalePixOp P n r s).k4 = s.k4 := by
  unfold scalePixOp; split <;> rfl
@[simp] theorem scalePixOp_k3 (P : Params) (n : Nat) (r : Rot) (s : State) : (scalePixOp P n r s).k3 = s.k3 := by
  unfold scalePixOp; split <;> rfl
@[simp] theorem scalePixOp_pos (P : Params) (n : Nat) (r : Rot) (s : State) : (scalePixOp P n r s).pos = s.pos := by
  unfold scalePixOp; split <;> rfl
@[simp] theorem scalePixOp_blend (P : Params) (n : Nat) (r : Rot) (s : State) : (scalePixOp P n r s).blend = s.blend := by
  unfold scalePixOp; split <;> rfl
@[simp] theorem scalePixOp_tables (P : Params) (n : Nat) (r : Rot) (s : State) : (scalePixOp P n r s).tables = s.tables := by
  unfold scalePixOp; split <;> rfl
@[simp] theorem scalePixOp_regs (P : Params) (n : Nat) (r : Rot) (s : State) : (scalePixOp P n r s).regs = s.regs := by
  unfold scalePixOp; split <;> rfl
@[simp] theorem scalePixOp_status (P : Params) (n : Nat) (r : Rot) (s : State) : (scalePixOp P n r s).status = s.status := by
  unfold scalePixOp; split <;> rfl
@[simp] theorem scalePixOp_run (P : Params) (n : Nat) (r : Rot) (s : State) : (scalePixOp P n r s).run = s.run := by
  unfold scalePixOp; split <;> rfl
@[simp] theorem scalePixOp_ports (P : Params) (n : Nat) (r : Rot) (s : State) : (scalePixOp P n r s).ports = s.ports := by
  unfold scalePixOp; split <;> rfl
@[simp] theorem scalePixOp_src (P : Params) (n : Nat) (r : Rot) (s : State) : (scalePixOp P n r s).src = s.src := by
  unfold scalePixOp; split <;> rfl
@[simp] theorem scalePixOp_dst (P : Params) (n : Nat) (r : Rot) (s : State) : (scalePixOp P n r s).dst = s.dst := by
  unfold scalePixOp; split <;> rfl
@[simp] theorem scalePixOp_env (P : Params) (n : Nat) (r : Rot) (s : State) : (scalePixOp P n r s).env = s.env := by
  unfold scalePixOp; split <;> rfl

/-! ### scaleFourOp -/

@[simp] theorem scaleFourOp_k4 (P : Params) (s : State) : (scaleFourOp P s).k4 = s.k4 := by
  simp [scaleFourOp]
@[simp] theorem scaleFourOp_k3 (P : Params) (s : State) : (scaleFourOp P s).k3 = s.k3 := by
  simp [scaleFourOp]
@[simp] theorem scaleFourOp_pos (P : Params) (s : State) : (scaleFourOp P s).pos = s.pos := by
  simp [scaleFourOp]
@[simp] theorem scaleFourOp_blend (P : Params) (s : State) : (scaleFourOp P s).blend = s.blend := by
  simp [scaleFourOp]
@[simp] theorem scaleFourOp_tables (P : Params) (s : State) : (scaleFourOp P s).tables = s.tables := by
  simp [scaleFourOp]
@[simp] theorem scaleFourOp_regs (P : Params) (s : State) : (scaleFourOp P s).regs = s.regs := by
  simp [scaleFourOp]
@[simp] theorem scaleFourOp_status (P : Params) (s : State) : (scaleFourOp P s).status = s.status := by
  simp [scaleFourOp]
@[simp] theorem scaleFourOp_run (P : Params) (s : State) : (scaleFourOp P s).run = s.run := by
  simp [scaleFourOp]
@[simp] theorem scaleFourOp_ports (P : Params) (s : State) : (scaleFourOp P s).ports = s.ports := by
  simp [scaleFourOp]
@[simp] theorem scaleFourOp_src (P : Params) (s : State) : (scaleFourOp P s).src = s.src := by
  simp [scaleFourOp]
@[simp] theorem scaleFourOp_dst (P : Params) (s : State) : (scaleFourOp P s).dst = s.dst := by
  simp [scaleFourOp]
@[simp] theorem scaleFourOp_env (P : Params) (s : State) : (scaleFourOp P s).env = s.env := by
  simp [scaleFourOp]

/-! ### classifyRelayOp -/

@[simp] theorem classifyRelayOp_k4 (P : Params) (s : State) : (classifyRelayOp P s).k4 = s.k4 := by
  simp [classifyRelayOp]
@[simp] theorem classifyRelayOp_k3 (P : Params) (s : State) : (classifyRelayOp P s).k3 = s.k3 := by
  simp [classifyRelayOp]
@[simp] theorem classifyRelayOp_px (P : Params) (s : State) : (classifyRelayOp P s).px = s.px := by
  simp [classifyRelayOp]
@[simp] theorem classifyRelayOp_pos (P : Params) (s : State) : (classifyRelayOp P s).pos = s.pos := by
  simp [classifyRelayOp]
@[simp] theorem classifyRelayOp_oblk (P : Params) (s : State) : (classifyRelayOp P s).oblk = s.oblk := by
  simp [classifyRelayOp]
@[simp] theorem classifyRelayOp_tables (P : Params) (s : State) : (classifyRelayOp P s).tables = s.tables := by
  simp [classifyRelayOp]
@[simp] theorem classifyRelayOp_regs (P : Params) (s : State) : (classifyRelayOp P s).regs = s.regs := by
  simp [classifyRelayOp]
@[simp] theorem classifyRelayOp_status (P : Params) (s : State) : (classifyRelayOp P s).status = s.status := by
  simp [classifyRelayOp]
@[simp] theorem classifyRelayOp_run (P : Params) (s : State) : (classifyRelayOp P s).run = s.run := by
  simp [classifyRelayOp]
@[simp] theorem classifyRelayOp_ports (P : Params) (s : State) : (classifyRelayOp P s).ports = s.ports := by
  simp [classifyRelayOp]
@[simp] theorem classifyRelayOp_src (P : Params) (s : State) : (classifyRelayOp P s).src = s.src := by
  simp [classifyRelayOp]
@[simp] theorem classifyRelayOp_dst (P : Params) (s : State) : (classifyRelayOp P s).dst = s.dst := by
  simp [classifyRelayOp]
@[simp] theorem classifyRelayOp_env (P : Params) (s : State) : (classifyRelayOp P s).env = s.env := by
  simp [classifyRelayOp]

/-! ### gatedBlendOp -/

@[simp] theorem gatedBlendOp_k4 (P : Params) (s : State) : (gatedBlendOp P s).k4 = s.k4 := by
  unfold gatedBlendOp; split <;> simp
@[simp] theorem gatedBlendOp_pos (P : Params) (s : State) : (gatedBlendOp P s).pos = s.pos := by
  unfold gatedBlendOp; split <;> simp
@[simp] theorem gatedBlendOp_blend (P : Params) (s : State) : (gatedBlendOp P s).blend = s.blend := by
  unfold gatedBlendOp; split <;> simp
@[simp] theorem gatedBlendOp_tables (P : Params) (s : State) : (gatedBlendOp P s).tables = s.tables := by
  unfold gatedBlendOp; split <;> simp
@[simp] theorem gatedBlendOp_regs (P : Params) (s : State) : (gatedBlendOp P s).regs = s.regs := by
  unfold gatedBlendOp; split <;> simp
@[simp] theorem gatedBlendOp_status (P : Params) (s : State) : (gatedBlendOp P s).status = s.status := by
  unfold gatedBlendOp; split <;> simp
@[simp] theorem gatedBlendOp_run (P : Params) (s : State) : (gatedBlendOp P s).run = s.run := by
  unfold gatedBlendOp; split <;> simp
@[simp] theorem gatedBlendOp_ports (P : Params) (s : State) : (gatedBlendOp P s).ports = s.ports := by
  unfold gatedBlendOp; split <;> simp
@[simp] theorem gatedBlendOp_src (P : Params) (s : State) : (gatedBlendOp P s).src = s.src := by
  unfold gatedBlendOp; split <;> simp
@[simp] theorem gatedBlendOp_dst (P : Params) (s : State) : (gatedBlendOp P s).dst = s.dst := by
  unfold gatedBlendOp; split <;> simp
@[simp] theorem gatedBlendOp_env (P : Params) (s : State) : (gatedBlendOp P s).env = s.env := by
  unfold gatedBlendOp; split <;> simp

/-! ### colStepOp -/

@[simp] theorem colStepOp_tables (P : Params) (s : State) : (colStepOp P s).tables = s.tables := by
  simp [colStepOp]
@[simp] theorem colStepOp_regs (P : Params) (s : State) : (colStepOp P s).regs = s.regs := by
  simp [colStepOp]
@[simp] theorem colStepOp_status (P : Params) (s : State) : (colStepOp P s).status = s.status := by
  simp [colStepOp]
@[simp] theorem colStepOp_run (P : Params) (s : State) : (colStepOp P s).run = s.run := by
  simp [colStepOp]
@[simp] theorem colStepOp_ports (P : Params) (s : State) : (colStepOp P s).ports = s.ports := by
  simp [colStepOp]
@[simp] theorem colStepOp_src (P : Params) (s : State) : (colStepOp P s).src = s.src := by
  simp [colStepOp]
@[simp] theorem colStepOp_env (P : Params) (s : State) : (colStepOp P s).env = s.env := by
  simp [colStepOp]

/-! ### Updates of one sub-record -/

@[simp] theorem deliver_hostData (v : HostWord) (s : State) : (deliver v s).env.hostData = v := rfl
@[simp] theorem deliver_inbox (v : HostWord) (s : State) : (deliver v s).env.inbox = s.env.inbox := rfl
@[simp] theorem deliver_tblOk (v : HostWord) (s : State) : (deliver v s).env.tblOk = s.env.tblOk := rfl
@[simp] theorem takeSlot_inbox (rest : List Slot) (s : State) : (takeSlot rest s).env.inbox = rest := rfl
@[simp] theorem takeSlot_hostData (rest : List Slot) (s : State) : (takeSlot rest s).env.hostData = s.env.hostData := rfl
@[simp] theorem takeSlot_tblOk (rest : List Slot) (s : State) : (takeSlot rest s).env.tblOk = s.env.tblOk := rfl
@[simp] theorem taint_inbox (s : State) : (taint s).env.inbox = s.env.inbox := rfl
@[simp] theorem taint_tblOk (s : State) : (taint s).env.tblOk = s.env.tblOk := rfl
@[simp] theorem drawn_inbox (s : State) : (drawn s).env.inbox = s.env.inbox := rfl
@[simp] theorem drawn_tblOk (s : State) : (drawn s).env.tblOk = s.env.tblOk := rfl
@[simp] theorem scrambleDst_inbox (s : State) : (scrambleDst s).env.inbox = s.env.inbox := rfl
@[simp] theorem startScan_inbox (s : State) : (startScan s).env.inbox = s.env.inbox := rfl
@[simp] theorem startScan_tblOk (s : State) : (startScan s).env.tblOk = s.env.tblOk := rfl
@[simp] theorem raise_status (e : ErrorName) (s : State) : (raise e s).status = ⟨false, false, errorCode e⟩ := rfl
@[simp] theorem acceptCommand_busy (s : State) : (acceptCommand s).status.busy = true := rfl
@[simp] theorem acceptCommand_done (s : State) : (acceptCommand s).status.done = false := rfl
@[simp] theorem endCommand_busy (s : State) : (endCommand s).status.busy = false := rfl
@[simp] theorem endCommand_done (s : State) : (endCommand s).status.done = s.status.done := rfl
@[simp] theorem endCommand_err (s : State) : (endCommand s).status.err = s.status.err := rfl

end Sys2Proof.Machine
end

