-- ==== Sys2Proof/Laws/Scan.lean ====
section
/-! SUPPORT. What one COLSTEP does to the position, the blend state and DST (46_driver.md R280). -/

namespace Sys2Proof.Machine

/-- The blend gate where every field is tested (R272). -/
theorem blendGate_iff {P : Params} (h : P.gateBrOnly = false) (b : BlendInfo) : blendGate P b = true ↔ b ≠ 0#8 := by
  simp [blendGate, h]

theorem colStepOp_pos (P : Params) (s : State) :
    (colStepOp P s).pos =
      if s.pos.x.toNat + 1 < s.run.w.toNat then { y := s.pos.y, x := s.pos.x + 1 }
      else { y := s.pos.y + 1, x := 0 } := by
  unfold colStepOp advanceOp
  simp
  split <;> rfl

/-- The advance as numbers: the next column, or column 0 of the next row (R283). -/
theorem colStepOp_position {s : State} (P : Params) (hx : s.pos.x.toNat < s.run.w.toNat)
    (hy : s.pos.y.toNat < s.run.h.toNat) :
    (s.pos.x.toNat + 1 < s.run.w.toNat ∧ (colStepOp P s).pos.x.toNat = s.pos.x.toNat + 1 ∧
        (colStepOp P s).pos.y.toNat = s.pos.y.toNat) ∨
      (s.pos.x.toNat + 1 = s.run.w.toNat ∧ (colStepOp P s).pos.x.toNat = 0 ∧
        (colStepOp P s).pos.y.toNat = s.pos.y.toNat + 1) := by
  rw [colStepOp_pos]
  have := s.run.w.isLt
  have := s.run.h.isLt
  by_cases h : s.pos.x.toNat + 1 < s.run.w.toNat
  · left
    rw [if_pos h]
    refine ⟨h, ?_, rfl⟩
    show (s.pos.x + 1).toNat = _
    rw [BitVec.toNat_add]
    simp [Config.wordBits] at *
    omega
  · right
    rw [if_neg h]
    refine ⟨by omega, rfl, ?_⟩
    show (s.pos.y + 1).toNat = _
    rw [BitVec.toNat_add]
    simp [Config.wordBits] at *
    omega

/-- The blend state after COLSTEP is RELAY's, with the results of the pixel's classification (R280 steps 1 to 4). -/
theorem colStepOp_blend (P : Params) (s : State) :
    (colStepOp P s).blend =
      (relayOp (cornersAt P s s.pos.x.toNat s.pos.y.toNat).f (cornersAt P s s.pos.x.toNat s.pos.y.toNat).g
        (cornersAt P s s.pos.x.toNat s.pos.y.toNat).j (cornersAt P s s.pos.x.toNat s.pos.y.toNat).k
        (rowStartOp s)).blend := by
  have h : (colStepOp P s).blend = (classifyRelayOp P (k4LoadOp (rowStartOp s))).blend := by
    simp [colStepOp]
  rw [h]
  have hk : (k4LoadOp (rowStartOp s)).k4 = kernel4At s s.pos.x.toNat s.pos.y.toNat := by
    unfold rowStartOp
    split <;> rfl
  have hc : cstRead P (k4LoadOp (rowStartOp s)) = cstRead P s := by
    unfold rowStartOp
    split <;> rfl
  have hcor : corners P (cstRead P (k4LoadOp (rowStartOp s))) (k4LoadOp (rowStartOp s)).k4 =
      cornersAt P s s.pos.x.toNat s.pos.y.toNat := by
    rw [hk, hc]
    rfl
  unfold classifyRelayOp
  simp only [classifyOp, hcor]
  rfl

theorem rowStartOp_brow (s : State) : (rowStartOp s).blend.brow = s.blend.brow := by
  unfold rowStartOp
  split <;> rfl

/-- COLSTEP keeps the canonical form of BROW. -/
theorem wf_brow_colStepOp (P : Params) {s : State} (h : s.blend.brow.wf = true) :
    (colStepOp P s).blend.brow.wf = true := by
  rw [colStepOp_blend]
  apply wf_relayOp
  rw [rowStartOp_brow]
  exact h

/-- The classifications of a scan do not change during it (20_memory.md R70, R73). -/
theorem cornersAt_colStepOp (P : Params) (s : State) (x y : Nat) :
    cornersAt P (colStepOp P s) x y = cornersAt P s x y := by
  unfold cornersAt
  congr 1
  · unfold cstRead
    rw [colStepOp_tables]
  · unfold kernel4At sample
    rw [colStepOp_src, colStepOp_run]

/-- The state between the blend and OUTWR of a COLSTEP. -/
def beforeOutWr (P : Params) (s : State) : State :=
  gatedBlendOp P (fillOp (classifyRelayOp P (k4LoadOp (rowStartOp s))))

/-- COLSTEP stores the pixel's block in DST and nothing else (R280 step 7). -/
theorem colStepOp_dst (P : Params) (s : State) :
    (colStepOp P s).dst =
      storeBlock s.run.n.toNat s.run.w.toNat s.pos.x.toNat s.pos.y.toNat (beforeOutWr P s).oblk s.dst := by
  unfold colStepOp
  rw [advanceOp_dst]
  unfold outWrOp
  simp only [gatedBlendOp_run, fillOp_run, classifyRelayOp_run, k4LoadOp_run, rowStartOp_run, gatedBlendOp_pos,
    fillOp_pos, classifyRelayOp_pos, k4LoadOp_pos, rowStartOp_pos, gatedBlendOp_dst, fillOp_dst,
    classifyRelayOp_dst, k4LoadOp_dst, rowStartOp_dst]
  rfl

/-- The output block of a pixel depends on the operands, the table and the image's source elements alone (R291). -/
theorem outputBlock_congr (P : Params) {s t : State} (h1 : t.run = s.run) (h2 : cstRead P t = cstRead P s)
    (h3 : ∀ c, c < s.run.w.toNat * s.run.h.toNat → t.src.read c = s.src.read c) {x y : Nat}
    (hx : x < s.run.w.toNat) (hy : y < s.run.h.toNat) : outputBlock P t x y = outputBlock P s x y := by
  have hsm : ∀ x y dx dy, sample t x y dx dy = sample s x y dx dy := by
    intro x y dx dy
    unfold sample
    rw [h1]
    exact h3 _ (srcIndex_lt (clampAxis_lt _ _ (by omega)) (clampAxis_lt _ _ (by omega)))
  have hk4 : ∀ x y, kernel4At t x y = kernel4At s x y := by
    intro x y
    unfold kernel4At
    simp only [hsm]
  have hk3 : ∀ x y, kernel3At t x y = kernel3At s x y := by
    intro x y
    unfold kernel3At
    simp only [hsm]
  have hco : ∀ x y, cornersAt P t x y = cornersAt P s x y := by
    intro x y
    unfold cornersAt
    rw [h2, hk4]
  unfold outputBlock blendAt topFields leftField
  simp only [hsm, hk3, hco, h1, h2]

/-- COLSTEP writes no sub-cell outside the block of the running scale (46_driver.md R266, 44_pixel_scaler.md R213). -/
theorem colStepOp_outside {P : Params} (hP : legalParams P = true) {s : State} (ht : s.tables.rot = .built)
    (hn : P.minScale ≤ s.run.n.toNat ∧ s.run.n.toNat ≤ P.maxScale) {i j : Nat} (hi : i < 8) (hj : j < 8)
    (ho : s.run.n.toNat ≤ i ∨ s.run.n.toNat ≤ j) : (colStepOp P s).oblk.cell i j = s.oblk.cell i j := by
  have h8 := (scale_range ((params_legal_iff P).mp hP).1 hn).2
  have hfill : (fillOp (classifyRelayOp P (k4LoadOp (rowStartOp s)))).oblk.cell i j = s.oblk.cell i j := by
    unfold fillOp
    simp only [classifyRelayOp_run, k4LoadOp_run, rowStartOp_run, classifyRelayOp_oblk, k4LoadOp_oblk, rowStartOp_oblk]
    rw [cell_fillBlock h8 _ _ hi hj, if_neg (by omega)]
  have hrun : (fillOp (classifyRelayOp P (k4LoadOp (rowStartOp s)))).run = s.run := by simp
  have htab : (fillOp (classifyRelayOp P (k4LoadOp (rowStartOp s)))).tables = s.tables := by simp
  unfold colStepOp
  simp only [advanceOp_oblk, outWrOp_oblk]
  generalize fillOp (classifyRelayOp P (k4LoadOp (rowStartOp s))) = u at *
  unfold gatedBlendOp
  split
  · unfold scaleFourOp
    have htk : (k3LoadOp u).tables.rot = .built := by rw [k3LoadOp_tables, htab]; exact ht
    rw [k3LoadOp_run, hrun, scalePixOp_outside hP (by simpa using htk) hn _ hi hj ho,
      scalePixOp_outside hP (by simpa using htk) hn _ hi hj ho, scalePixOp_outside hP (by simpa using htk) hn _ hi hj ho,
      scalePixOp_outside hP (by simpa using htk) hn _ hi hj ho, k3LoadOp_oblk, hfill]
  · exact hfill

end Sys2Proof.Machine
end

