-- ==== Sys2Proof/Laws/Step.lean ====
section
/-! SUPPORT. What a turn does for each head of the inbox (`step` is `turnOp hw exec`), and runs of a machine. -/

namespace Sys2Proof.Machine

section

variable {P : Params} {run : Instr → State → Host.Outcome State Fault Refusal} {s : State} {rest : List Slot}

theorem turnOp_nil (h : s.env.inbox = []) : turnOp P run s = .next (engineStep P s) := by
  unfold turnOp
  rw [h]

theorem turnOp_engine (h : s.env.inbox = .engine :: rest) :
    turnOp P run s = .next (engineStep P (takeSlot rest s)) := by
  unfold turnOp
  rw [h]

theorem turnOp_issue {e : Issue} (h : s.env.inbox = .issue e :: rest) :
    turnOp P run s = issueOp P.toSizes run e (takeSlot rest s) := by
  unfold turnOp
  rw [h]

theorem turnOp_poll (h : s.env.inbox = .poll :: rest) : turnOp P run s = .next (pollOp P s) := by
  unfold turnOp
  rw [h]

theorem turnOp_srcStore {a : BitVec 32} {p : Pixel} (h : s.env.inbox = .srcStore a p :: rest) :
    turnOp P run s = .next (srcStoreOp a.toNat p (takeSlot rest s)) := by
  unfold turnOp
  rw [h]

theorem turnOp_dstStore {a : BitVec 32} {p : Pixel} (h : s.env.inbox = .dstStore a p :: rest) :
    turnOp P run s = .next (dstStoreOp a.toNat p (takeSlot rest s)) := by
  unfold turnOp
  rw [h]

theorem turnOp_dstLoad {a : BitVec 32} (h : s.env.inbox = .dstLoad a :: rest) :
    turnOp P run s = .next (dstLoadOp a.toNat (takeSlot rest s)) := by
  unfold turnOp
  rw [h]

theorem turnOp_resetWithPin {b : Bool} (h : s.env.inbox = .resetWithPin b :: rest) :
    turnOp P run s = .next (resetWithPinOp b (takeSlot rest s)) := by
  unfold turnOp
  rw [h]

end

/-- An operation that decodes is run. -/
theorem issueOp_ok {z : Sizes} {run : Instr → State → Host.Outcome State Fault Refusal} {e : Issue} {i : Instr}
    (h : decodeFor z e = .ok i) (s : State) : issueOp z run e s = run i s := by
  unfold issueOp
  rw [h]

/-- A store to SRC: the element, and the mark of an image element stored to while BUSY (R340). -/
theorem srcStoreOp_eq (a : Nat) (p : Pixel) (s : State) :
    srcStoreOp a p s = { s with
      src := s.src.write a p
      env := { s.env with tainted := s.env.tainted ||
        (s.status.busy && decide (a < s.run.w.toNat * s.run.h.toNat)) } } := by
  unfold srcStoreOp
  generalize (s.status.busy && decide (a < s.run.w.toNat * s.run.h.toNat)) = b
  cases b <;> simp [taint]

/-- A store to DST: the element, and the mark of an image element stored to while BUSY (20_memory.md R71). -/
theorem dstStoreOp_eq (a : Nat) (p : Pixel) (s : State) :
    dstStoreOp a p s = { s with
      dst := s.dst.write a p
      env := { s.env with tainted := s.env.tainted || (s.status.busy && decide (a < imageSize s.run)) } } := by
  unfold dstStoreOp
  generalize (s.status.busy && decide (a < imageSize s.run)) = b
  cases b <;> simp [taint]

/-- A host register write is decoded to no reset. -/
theorem decodeWr_ne_reset (reg value : HostWord) : decodeWr reg value ≠ .reset := by
  unfold decodeWr decodeCmd
  repeat' split
  all_goals exact nofun

/-- A host register read is decoded to no reset. -/
theorem decodeRd_ne_reset (reg : HostWord) : decodeRd reg ≠ .reset := by
  unfold decodeRd
  repeat' split
  all_goals exact nofun

theorem run_succ_eq (M : Host.Core) (k : Nat) (s : M.State) :
    M.run (k + 1) s = match M.step s with
      | .next s' => M.run k s'
      | .fault r => .fault r
      | .refused r => .refused r := rfl

/-- A run begins with a step. -/
theorem run_next (M : Host.Core) (k : Nat) {s t : M.State} (h : M.step s = .next t) : M.run (k + 1) s = M.run k t := by
  rw [run_succ_eq, h]

/-- A run that is followed by one more step. -/
theorem run_then_step (M : Host.Core) (k : Nat) (s t u : M.State) (h : M.run k s = .next t) (hu : M.step t = .next u) :
    M.run (k + 1) s = .next u := by
  induction k generalizing s with
  | zero =>
    have h0 : M.run 0 s = .next s := rfl
    rw [h0] at h
    cases h
    rw [run_next M 0 hu]
    rfl
  | succ k ih =>
    cases hv : M.step s with
    | next v =>
      rw [run_next M (k + 1) hv]
      rw [run_next M k hv] at h
      exact ih v h
    | fault r =>
      rw [run_succ_eq, hv] at h
      cases h
    | refused r =>
      rw [run_succ_eq, hv] at h
      cases h

end Sys2Proof.Machine
end

