-- ==== Sys2Proof/Laws/AnyParams.lean ====
section
/-! SUPPORT. The block with any parameters (00_scope.md R6), and what does not read PATTAB with any table
(45_blend_tables_3_to_6.md R240, R248). -/

namespace Sys2Proof.Machine

variable (tab : Nat → Pattern → List Entry)

@[simp] theorem withTable_pattab : (withTable tab).pattab = tab := rfl

theorem withTable_hw : withTable hw.pattab = hw := rfl

@[simp] theorem cstRead_withTable (s : State) : cstRead (withTable tab) s = cstRead hw s := rfl

@[simp] theorem classifyOp_withTable (s : State) : classifyOp (withTable tab) s = classifyOp hw s := rfl

@[simp] theorem scaleImageOp_withTable (s : State) : scaleImageOp (withTable tab) s = scaleImageOp hw s := rfl

theorem cornersAt_withTable (s : State) (x y : Nat) : cornersAt (withTable tab) s x y = cornersAt hw s x y := rfl

theorem blendAt_withTable (s : State) (x y : Nat) : blendAt (withTable tab) s x y = blendAt hw s x y := rfl

theorem blendGate_withTable (b : BlendInfo) : blendGate (withTable tab) b = true ↔ b ≠ 0#8 := blendGate_iff rfl b

theorem colStepOp_pos_withTable (s : State) : (colStepOp (withTable tab) s).pos = (colStepOp hw s).pos := by
  rw [colStepOp_pos, colStepOp_pos]

theorem colStepOp_blend_withTable (s : State) : (colStepOp (withTable tab) s).blend = (colStepOp hw s).blend := by
  rw [colStepOp_blend, colStepOp_blend]
  rfl

theorem coreWith_step (P : Params) (s : State) : (coreWith P).step s = turnOp P (execWith P) s := rfl

/-- With this hardware's parameters an operation is this hardware's. -/
theorem execWith_hw (i : Instr) (s : State) : execWith hw i s = exec i s := by
  cases i <;> rfl

theorem coreWith_step_hw (s : State) : (coreWith hw).step s = step s := by
  have h : execWith hw = exec := funext fun i => funext (execWith_hw i)
  rw [coreWith_step, h]
  rfl

/-- With this hardware's parameters a run is this hardware's. -/
theorem coreWith_run_hw (k : Nat) (s : State) : (coreWith hw).run k s = core.run k s := by
  induction k generalizing s with
  | zero => rfl
  | succ k ih =>
    have e1 := run_succ_eq (coreWith hw) k s
    have e2 := run_succ_eq core k s
    rw [coreWith_step_hw] at e1
    have hs : core.step s = step s := rfl
    rw [hs] at e2
    cases hv : step s with
    | next v =>
      rw [hv] at e1 e2
      exact e1.trans ((ih v).trans e2.symm)
    | fault r =>
      rw [hv] at e1 e2
      exact e1.trans e2.symm
    | refused r =>
      rw [hv] at e1 e2
      exact e1.trans e2.symm

/-- The relay does not read PATTAB. -/
theorem relayHolds_withTable (s : State) : s.RelayHolds (withTable tab) ↔ s.RelayHolds hw :=
  ⟨fun h => ⟨h.done, h.here, h.ahead, h.carry⟩, fun h => ⟨h.done, h.here, h.ahead, h.carry⟩⟩

end Sys2Proof.Machine
end

