-- ==== Sys2Proof/Laws/Command.lean ====
section
/-! SUPPORT. The laws of the table builds and of a command's acceptance (46_driver.md R288, R290). -/

namespace Sys2Proof.Machine

/-- Both builds when CSTBUILD can succeed. -/
theorem build_succeeds (s : State) (h : s.tables.csValid = true ∨ s.env.tblOk = true) :
    cstBuildOp (rotBuildOp s) = { s with tables :=
      { cst := if s.tables.csValid then s.tables.cst else .built
        rot := if s.tables.rotValid then s.tables.rot else .built
        csValid := true
        rotValid := true } } := by
  rcases s with ⟨k4, k3, px, pos, blend, oblk, ⟨c, r, cv, rv⟩, regs, status, run, sig, ports, src, dst, env⟩
  simp only at h
  unfold cstBuildOp rotBuildOp
  cases cv <;> cases rv <;> simp_all

/-- Both builds when tbl_ok is 0 and CSTAB is not valid (60_exceptions.md R308). -/
theorem build_fails (s : State) (hc : s.tables.csValid = false) (ht : s.env.tblOk = false) :
    cstBuildOp (rotBuildOp s) = { s with
      status := { busy := false, done := false, err := 4#3 }
      tables := { s.tables with rot := if s.tables.rotValid then s.tables.rot else .built, rotValid := true } } := by
  rcases s with ⟨k4, k3, px, pos, blend, oblk, ⟨c, r, cv, rv⟩, regs, status, run, sig, ports, src, dst, env⟩
  simp only at hc ht
  unfold cstBuildOp rotBuildOp
  cases cv <;> cases rv <;> simp_all [raise, errorCode]

theorem fatal_acceptCommand (s : State) : fatal (acceptCommand s) = fatal s := by
  unfold acceptCommand
  cases h : fatal s
  · rfl
  · rfl

theorem fatal_iff (s : State) : fatal s = true ↔ s.status.err = 4#3 := by
  simp [fatal]

/-- The preconditions of SCALE_IMAGE as numbers (60_exceptions.md R301 to R303). -/
theorem precondition_none_iff (P : Params) (r : Regs) :
    precondition P r = none ↔
      1 ≤ r.width.toNat ∧ r.width.toNat ≤ P.maxW ∧ 1 ≤ r.height.toNat ∧ P.minScale ≤ r.scale.toNat ∧
        r.scale.toNat ≤ P.maxScale ∧
        r.width.toNat * r.scale.toNat * r.height.toNat * r.scale.toNat ≤ r.dstCap.toNat := by
  unfold precondition
  simp only
  split
  · simp
    omega
  · split
    · simp
      omega
    · split
      · simp
        omega
      · simp
        omega

end Sys2Proof.Machine
end

