-- ==== Sys2Proof/Laws/PerInstr.lean ====
section
/-! SUPPORT. The statement made of each instruction on its own: what the decoder reads from its encoding. -/

namespace Sys2Proof.Laws.EncodeDecode

/-- A well-formed instruction's encoding decodes to it, with every operand (30_encoding.md R102 to R106). -/
def Statement (i : Instr) : Prop := i.wf = true → decode (encode i) = .ok i

/-- An operation issued at a sequencer place is read as itself. -/
theorem of_seq {i : Instr} (he : encode i = .seq i) (hf : i.format = .seq) : Statement i := by
  intro h
  simp only [Instr.wf] at h
  simp [he, decode, decodeFor, hf, h]

theorem initTables : Statement .initTables := fun _ => rfl

theorem scaleImage : Statement .scaleImage := fun _ => rfl

theorem cmdReserved (word : HostWord) : Statement (.cmdReserved word) := by
  intro h
  simp only [Instr.wf, Instr.wfFor, Bool.and_eq_true, bne_iff_ne, ne_eq] at h
  simp [encode, decode, decodeFor, decodeWr, decodeCmd, h.1, h.2]

theorem wrScale (value : HostWord) : Statement (.wrScale value) := fun _ => rfl

theorem wrWidth (value : HostWord) : Statement (.wrWidth value) := fun _ => rfl

theorem wrHeight (value : HostWord) : Statement (.wrHeight value) := fun _ => rfl

theorem wrDstCap (value : HostWord) : Statement (.wrDstCap value) := fun _ => rfl

theorem rdStatus (form : StatusForm) : Statement (.rdStatus form) := by
  intro _
  cases form with
  | read reg => cases reg <;> rfl
  | writeIgnored value => rfl

theorem regNonexistent (reg : HostWord) (form : AbsentForm) : Statement (.regNonexistent reg form) := by
  intro h
  simp only [Instr.wf, Instr.wfFor, decide_eq_true_eq] at h
  have hn : ∀ k : HostWord, k.toNat < 6 → reg ≠ k := fun k hk he => by rw [he] at h; omega
  have h0 := hn 0#32 (by decide)
  have h1 := hn 1#32 (by decide)
  have h2 := hn 2#32 (by decide)
  have h3 := hn 3#32 (by decide)
  have h4 := hn 4#32 (by decide)
  have h5 := hn 5#32 (by decide)
  cases form <;> simp [encode, decode, decodeFor, decodeWr, decodeRd, h0, h1, h2, h3, h4, h5]

theorem patCorner : Statement .patCorner := fun _ => rfl

theorem patDiag : Statement .patDiag := fun _ => rfl

theorem patShallow : Statement .patShallow := fun _ => rfl

theorem patSteep : Statement .patSteep := fun _ => rfl

theorem patBoth : Statement .patBoth := fun _ => rfl

theorem cstBuild : Statement .cstBuild := of_seq rfl rfl

theorem dist (p q : Pixel) : Statement (.dist p q) := of_seq rfl rfl

theorem eqTol (p q : Pixel) : Statement (.eqTol p q) := of_seq rfl rfl

theorem ident (p q : Pixel) : Statement (.ident p q) := of_seq rfl rfl

theorem rotBuild : Statement .rotBuild := of_seq rfl rfl

theorem rotOff (n : Scale) (r : Rot) (i j : BitVec 3) : Statement (.rotOff n r i j) := of_seq rfl rfl

theorem kRot (r : Rot) (name : KName) : Statement (.kRot r name) := of_seq rfl rfl

theorem bRot (b : BlendInfo) (r : Rot) : Statement (.bRot b r) := of_seq rfl rfl

theorem classify : Statement .classify := of_seq rfl rfl

theorem relay (bf bg bj bk : BlendType) : Statement (.relay bf bg bj bk) := of_seq rfl rfl

theorem fill : Statement .fill := of_seq rfl rfl

theorem k3Load : Statement .k3Load := of_seq rfl rfl

theorem scalePix (n : Scale) (r : Rot) : Statement (.scalePix n r) := of_seq rfl rfl

theorem interp (col dst : Pixel) (n m : BitVec 7) : Statement (.interp col dst n m) := of_seq rfl rfl

theorem outWr : Statement .outWr := of_seq rfl rfl

theorem clamp (x y : Coord) (dx dy : Offset) : Statement (.clamp x y dx dy) := of_seq rfl rfl

theorem k4Load : Statement .k4Load := of_seq rfl rfl

theorem colStep : Statement .colStep := of_seq rfl rfl

theorem reset : Statement .reset := of_seq rfl rfl

end Sys2Proof.Laws.EncodeDecode
end

