-- ==== Sys2Proof/Tests/Slice0.lean ====
section
/-! SUPPORT. The tests: the operand checks, the words of the encoding tables, one step on small states with expected
results from 95_test_vectors.md and the rules' worked examples, and a witness for each statement with hypotheses. -/

namespace Sys2Proof.Tests

-- One theorem after the other: as parallel tasks their stacks pass the memory limit of the joined file.
set_option Elab.async false

open Sys2Proof Sys2Proof.Machine

/-! ### The operand checks: one ill-formed term for each, which the check and the decoder refuse -/

/-- The check refuses the operation. -/
def illFormed (i : Instr) : Bool := !i.wf

/-- The decoder's rejection of an issue. -/
def rejection (e : Issue) : Option Reject :=
  match decode e with
  | .ok _ => none
  | .error why => some why

/-- The operation the decoder reads. -/
def decoded (e : Issue) : Option Instr :=
  match decode e with
  | .ok i => some i
  | .error _ => none

theorem test_wf_refuses_a_command_code_as_reserved :
    [Instr.cmdReserved 1#32, .cmdReserved 0xFFFFFFF2#32].all illFormed = true := by decide

theorem test_wf_refuses_an_existing_register_as_absent :
    [Instr.regNonexistent 5#32 .read, .regNonexistent 0#32 (.write 7#32)].all illFormed = true := by decide

theorem test_wf_refuses_rotoff_outside_the_grid :
    [Instr.rotOff 1 0 0 0, .rotOff 7 0 0 0, .rotOff 3 1 3 0, .rotOff 3 1 0 3].all illFormed = true := by decide

theorem test_wf_refuses_the_reserved_blend_type :
    [Instr.relay 3 0 0 0, .relay 0 3 0 0, .relay 0 0 3 0, .relay 0 0 0 3].all illFormed = true := by decide

theorem test_wf_refuses_an_unsupported_scale :
    [Instr.scalePix 0 0, .scalePix 1 0, .scalePix 7 3, .scalePix 15 0].all illFormed = true := by decide

theorem test_wf_refuses_a_coordinate_out_of_width :
    [Instr.clamp 0x20000 0 .zero .zero, .clamp 0 0x20000 .zero .zero].all illFormed = true ∧
      (Instr.clamp 0x1FFFF 0x1FFFF .zero .zero).wf = true := by decide

theorem test_wf_refuses_a_weight_that_is_no_fraction :
    [Instr.interp 0 0 0 4, .interp 0 0 4 4, .interp 0 0 5 4, .interp 0 0 1 101].all illFormed = true := by decide

theorem test_decode_rejects_by_name :
    rejection (.seq (.scalePix 7 0)) = some .illFormed ∧ rejection (.seq (.relay 0 0 0 3)) = some .illFormed ∧
      rejection (.seq .scaleImage) = some .notSeq ∧ rejection (.seq .patBoth) = some .notSeq := by decide

/-! ### Decoding: words written out bit by bit from 30_encoding.md -/

/-- Commands: the code in bits 3:0, bits 31:4 ignored (R104, R105). -/
theorem test_decode_commands :
    decoded (.wr 0#32 0b00000000000000000000000000000001#32) = some .initTables ∧
      decoded (.wr 0#32 0b10101010101010101010101010100001#32) = some .initTables ∧
      decoded (.wr 0#32 0b11111111111111111111111111110010#32) = some .scaleImage ∧
      decoded (.wr 0#32 0b00000000000000000000000000010000#32) = some (.cmdReserved 16#32) ∧
      decoded (.wr 0#32 0b00000000000000000000000000000011#32) = some (.cmdReserved 3#32) := by decide

/-- Register accesses (R103; 10_state.md R33). -/
theorem test_decode_registers :
    decoded (.wr 1#32 0xFFFFFFF6#32) = some (.wrScale 0xFFFFFFF6#32) ∧
      decoded (.wr 2#32 3#32) = some (.wrWidth 3#32) ∧
      decoded (.wr 3#32 3#32) = some (.wrHeight 3#32) ∧
      decoded (.wr 4#32 36#32) = some (.wrDstCap 36#32) ∧
      decoded (.wr 5#32 1#32) = some (.rdStatus (.writeIgnored 1#32)) ∧
      decoded (.rd 5#32) = some (.rdStatus (.read .status)) ∧
      decoded (.rd 0#32) = some (.rdStatus (.read .cmd)) ∧
      decoded (.rd 6#32) = some (.regNonexistent 6#32 .read) ∧
      decoded (.wr 0xFFFFFFFF#32 9#32) = some (.regNonexistent 0xFFFFFFFF#32 (.write 9#32)) := by decide

/-- Pattern selects: the eight codes of R106. -/
theorem test_decode_patterns :
    [0b000#3, 0b001#3, 0b010#3, 0b011#3, 0b100#3, 0b101#3, 0b110#3, 0b111#3].map (fun sel => decoded (.patsel sel)) =
      [some .patCorner, some .patCorner, some .patCorner, some .patCorner,
        some .patDiag, some .patSteep, some .patShallow, some .patBoth] := by decide

/-- Sequencer places have no bits: the operation stands for itself (R102). -/
theorem test_decode_sequencer_places :
    [Instr.cstBuild, .dist 1 2, .eqTol 1 2, .ident 1 2, .rotBuild, .rotOff 6 3 5 5, .kRot 1 .f, .bRot 0x1B 1,
      .classify, .relay 0 1 2 0, .fill, .k3Load, .scalePix 6 3, .interp 1 2 21 100, .outWr, .clamp 1 2 .neg1 .pos2,
      .k4Load, .colStep, .reset].all (fun i => decoded (.seq i) == some i) = true := by decide

/-- Rows as the opcode table numbers their bits (log 3). -/
theorem test_decode_table_words :
    decodeTableWord 8 0x1 = some .initTables ∧ decodeTableWord 8 0x2 = some .scaleImage ∧
      decodeTableWord 32 0x1 = some (.wrScale 0#32) ∧ decodeTableWord 32 0x4 = some (.wrDstCap 0#32) ∧
      decodeTableWord 64 0x300000001 = some (.wrScale 3#32) ∧
      decodeTableWord 32 0x5 = some (.rdStatus (.read .status)) ∧
      decodeTableWord 8 0x4 = some .patDiag ∧ decodeTableWord 8 0x7 = some .patBoth ∧
      decodeTableWord 0 0x0 = none := by decide

/-! ### The states of the tests -/

/-- The state an outcome carries. -/
def after (o : Host.Outcome State Fault Refusal) : State :=
  match o with
  | .next s => s
  | .fault _ => State.reset
  | .refused _ => State.reset

/-- White, black and a grey. -/
def white : Pixel := 0x00FFFFFF#32
def grey (v : Nat) : Pixel := BitVec.ofNat 32 (v * 0x10101)

/-- An idle block with its tables built. -/
def ready : State := { State.reset with tables := ⟨.built, .built, true, true⟩ }

/-- `ready` with registers 1 to 4 written. -/
def programmed (n : Scale) (w h cap : HostWord) : State := { ready with regs := ⟨n, w, h, cap⟩ }

/-- A scan of w x h at scale n, standing at (x, y). -/
def scanning (n : Scale) (w h : HostWord) (x y : Coord) : State :=
  { programmed n w h 0xFFFFFFFF with status := ⟨true, false, 0⟩, run := ⟨n, w, h⟩, pos := ⟨y, x⟩ }

/-- The dot of 46_driver.md R293 at scale 2, before COLSTEP at (1, 1): the relay as P2 traces it. -/
def dotMiddle : State :=
  { scanning 2 3 3 1 1 with src := [(4, white)], blend := ⟨0, [(1, 0x45)], 0⟩ }

/-- A ready block that holds a kernel of greys, given in the order b c e f g h i j k l n o (95_test_vectors.md V30). -/
def kernelState (b c e f g h i j k l n o : Nat) : State :=
  { ready with k4 := ⟨grey b, grey c, grey e, grey f, grey g, grey h, grey i, grey j, grey k, grey l, grey n, grey o⟩ }

/-- The results of CLASSIFY on it. -/
def classified (s : State) : List Nat :=
  let g := (after (exec .classify s)).sig
  [g.bf.toNat, g.bg.toNat, g.bj.toNat, g.bk.toNat]

/-- A ready block for V39: OBLK of grey 100, a 3x3 kernel of greys, a blend byte. -/
def blendState (bxy : BlendInfo) (a b c d e f g h i : Nat) : State :=
  { ready with
    run := ⟨2, 3, 3⟩
    oblk := Vector.replicate 64 (grey 100)
    blend := ⟨bxy, [], 0⟩
    k3 := ⟨grey a, grey b, grey c, grey d, grey e, grey f, grey g, grey h, grey i⟩ }

/-- The 2 x 2 block after an operation, row-major. -/
def block2 (i : Instr) (s : State) : List Pixel :=
  let b := (after (exec i s)).oblk
  [b.cell 0 0, b.cell 0 1, b.cell 1 0, b.cell 1 1]

/-! ### Color metric (V10 to V13) -/

/-- V10. -/
theorem test_cst_entries :
    [0x000000#24, 0xFFFFFF#24, 0xFF0000#24, 0x00FF00#24, 0x0000FF#24, 0xFFFF00#24, 0x123456#24, 0x000003#24].map
        (cstRead hw ready) =
      [0x008080#24, 0xFF8080#24, 0x4C54FF#24, 0x952B15#24, 0x1DFF6B#24, 0xE10094#24, 0x2D966C#24, 0x00817F#24] := by
  decide +kernel

/-- R308, R32: CSTBUILD with tbl_ok 0 leaves CS_VALID 0 and ERR 4; a valid table is not built again. -/
theorem test_cstbuild :
    (after (exec .cstBuild State.reset)).tables = ⟨.built, .unspecified, true, false⟩ ∧
      (after (exec .cstBuild { State.reset with env := { State.reset.env with tblOk := false } })).status.err = 4#3 := by
  decide +kernel

/-- V11. -/
theorem test_dist :
    (after (exec (.dist 0 white) ready)).ports.dist = 65025#18 ∧
      (after (exec (.dist 0x00FF0000#32 0x000000FF#32) ready)).ports.dist = 53354#18 := by decide +kernel

/-- V12, V13. -/
theorem test_eq_is_strict_and_blind_to_alpha :
    (after (exec (.eqTol 0 (grey 29)) ready)).ports.eqTol = true ∧
      (after (exec (.eqTol 0 (grey 30)) ready)).ports.eqTol = false ∧
      (after (exec (.eqTol white 0xFFFFFFFF#32) ready)).ports.eqTol = true := by decide +kernel

/-- V13. -/
theorem test_ident_sees_alpha :
    (after (exec (.ident white 0xFFFFFFFF#32) ready)).ports.ident = false ∧
      (after (exec (.ident white white) ready)).ports.ident = true := by decide +kernel

/-! ### Rotation geometry (V20 to V23) -/

/-- V21, and R141. -/
theorem test_rotbuild :
    (after (exec .rotBuild State.reset)).tables = ⟨.unspecified, .built, false, true⟩ ∧
      rotRead hw ready 180 = 0x10#6 ∧ rotRead hw ready 719 = 0x28#6 ∧ rotRead hw ready 0 = 0#6 := by decide +kernel

/-- V20, V21. -/
theorem test_rotoff :
    (after (exec (.rotOff 3 1 0 0) ready)).ports.rotOff = 0b010000#6 ∧
      (after (exec (.rotOff 3 3 1 2) ready)).ports.rotOff = 0b010001#6 := by decide +kernel

/-- V22. -/
theorem test_krot :
    let s := blendState 0 1 2 3 4 5 6 7 8 9
    (after (exec (.kRot 1 .f) s)).ports.kRot = s.k3.b ∧ (after (exec (.kRot 3 .f) s)).ports.kRot = s.k3.h ∧
      (after (exec (.kRot 1 .g) s)).ports.kRot = s.k3.i := by decide +kernel

/-- V23. -/
theorem test_brot :
    [0#2, 1#2, 2#2, 3#2].map (fun r => (after (exec (.bRot 0x1B r) ready)).ports.bRot) =
      [0x1B#8, 0x6C#8, 0xB1#8, 0xC6#8] := by decide +kernel

/-! ### Corner classifier (V30 to V36) -/

/-- V30, V31, V32. -/
theorem test_classify_dominance :
    classified (kernelState 11 2 11 0 10 2 1 10 2 10 2 10) = [1, 0, 0, 1] ∧
      classified (kernelState 11 2 11 0 10 2 1 10 2 10 2 11) = [2, 0, 0, 2] ∧
      classified (kernelState 1 10 2 10 0 11 11 2 10 2 11 2) = [0, 2, 2, 0] := by decide +kernel

/-- V33, V35, V36: a guard, identity against alpha, the tie. -/
theorem test_classify_guards :
    classified (kernelState 11 2 11 0 10 2 1 10 10 10 2 10) = [1, 0, 0, 0] ∧
      classified { kernelState 1 2 3 7 7 4 5 9 9 6 7 8 with
        k4 := { (kernelState 1 2 3 7 7 4 5 9 9 6 7 8).k4 with g := 0xFF070707#32 } } = [1, 0, 0, 0] ∧
      classified (kernelState 5 0 5 0 5 0 0 5 0 5 0 5) = [0, 0, 0, 0] := by decide +kernel

/-! ### The relay (43_blend_pipeline.md R189) -/

/-- R189 at x = 0. -/
theorem test_relay :
    (after (exec (.relay 0 2 0 1) { scanning 2 2 1 0 0 with blend := ⟨0, [(1, 0x04)], 0⟩ })).blend =
      ⟨0x00, [(1, 0x84)], 0x01⟩ := by decide +kernel

/-- R189 at x = 1, the last column. -/
theorem test_relay_last_column :
    (after (exec (.relay 0 0 0 0) { scanning 2 2 1 1 0 with blend := ⟨0, [(1, 0x84)], 0x01⟩ })).blend =
      ⟨0x84, [(1, 0x01)], 0x00⟩ := by decide +kernel

/-! ### The pixel scaler (V38, V39; 44_pixel_scaler.md R216 to R220) -/

/-- V38: the ratio rounds down, and alpha is 0. -/
theorem test_interp :
    (after (exec (.interp 0 white 21 100) ready)).ports.interp = 0x00C9C9C9#32 ∧
      (after (exec (.interp 0xFF102030#32 0xFFF0E0D0#32 5 6) ready)).ports.interp = 0x0035404A#32 := by decide +kernel

/-- V39: CORNER, SHALLOW, and a step whose own corner is None. -/
theorem test_scalepix_at_rotation_zero :
    block2 (.scalePix 2 0) (blendState 0x10 0 0 0 0 100 0 0 0 0) = [grey 100, grey 100, grey 100, grey 79] ∧
      block2 (.scalePix 2 0) (blendState 0x20 7 100 3 100 100 3 5 6 0) = [grey 100, grey 100, grey 76, grey 29] ∧
      block2 (.scalePix 2 2) (blendState 0x20 0 0 0 0 100 100 0 100 100) =
        [grey 100, grey 100, grey 100, grey 100] := by decide +kernel

/-- V39: BOTH at r = 2. -/
theorem test_scalepix_at_rotation_two :
    block2 (.scalePix 2 2) (blendState 0x02 0 0 0 0 100 100 0 100 100) = [grey 16, grey 75, grey 75, grey 100] := by
  decide +kernel

/-- The five patterns at N = 2, r = 0, with PX black over grey 100 (R216 to R220 and V39's arithmetic). -/
theorem test_patterns :
    let s := blendState 0 0 0 0 0 0 0 0 0 0
    block2 .patCorner s = [grey 100, grey 100, grey 100, grey 79] ∧
      block2 .patDiag s = [grey 100, grey 100, grey 100, grey 50] ∧
      block2 .patShallow s = [grey 100, grey 100, grey 75, grey 25] ∧
      block2 .patSteep s = [grey 100, grey 75, grey 100, grey 25] ∧
      block2 .patBoth s = [grey 100, grey 75, grey 75, grey 16] := by decide +kernel

/-! ### The driver (46_driver.md, V47, V48) -/

/-- V47 and R261: the far corner with (+2, +2), the origin with (-1, -1). -/
theorem test_clamp :
    let s := scanning 2 3 2 0 0
    let u := (after (exec (.clamp 2 1 .pos2 .pos2) s)).ports
    let v := (after (exec (.clamp 0 0 .neg1 .neg1) s)).ports
    u.clampX = 2 ∧ u.clampY = 1 ∧ v.clampX = 0 ∧ v.clampY = 0 := by decide +kernel

/-- R264 on the image 1 .. 9 at (0, 0): the clamped row and column repeat. -/
theorem test_k4load :
    let s := { scanning 2 3 3 0 0 with src := [(0, 1), (1, 2), (2, 3), (3, 4), (4, 5), (5, 6), (6, 7), (7, 8), (8, 9)] }
    (after (exec .k4Load s)).k4 = ⟨1, 2, 1, 1, 2, 3, 4, 4, 5, 6, 7, 8⟩ := by decide +kernel

/-- R270 on the same image at (2, 2). -/
theorem test_k3load :
    let s := { scanning 2 3 3 2 2 with src := [(0, 1), (1, 2), (2, 3), (3, 4), (4, 5), (5, 6), (6, 7), (7, 8), (8, 9)] }
    (after (exec .k3Load s)).k3 = ⟨5, 6, 6, 8, 9, 9, 8, 9, 9⟩ := by decide +kernel

/-- R266: all 32 bits, and no sub-cell outside the block. -/
theorem test_fill :
    let s := { scanning 2 3 3 0 0 with k4 := { State.reset.k4 with f := 0xFF123456#32 } }
    let b := (after (exec .fill s)).oblk
    b.cell 0 0 = 0xFF123456#32 ∧ b.cell 1 1 = 0xFF123456#32 ∧ b.cell 0 2 = 0 ∧ b.cell 2 0 = 0 := by decide +kernel

/-- V48. -/
theorem test_outwr :
    let s := { scanning 2 3 3 1 1 with oblk := fillBlock 2 white State.reset.oblk }
    (after (exec .outWr s)).dst = [(14, white), (15, white), (20, white), (21, white)] ∧
      outIndex 3 4 2 0 2 1 = 31 := by decide +kernel

/-- The middle COLSTEP of the dot (R293): four corner blends, and the relay as P2 traces it. -/
theorem test_colstep :
    let t := after (exec .colStep dotMiddle)
    t.dst = [(14, 0x00C9C9C9), (15, 0x00C9C9C9), (20, 0x00C9C9C9), (21, 0x00C9C9C9)] ∧
      t.blend = ⟨0x55, [], 0⟩ ∧ t.pos = ⟨1, 2⟩ := by decide +kernel

/-! ### Commands and registers (60_exceptions.md R315, P1) -/

/-- P1's two INIT_TABLES, and R315 (e). -/
theorem test_init_tables :
    statusWord (after (exec .initTables State.reset)) = 0x0000000C#32 ∧
      after (exec .initTables ready) = ready ∧
      statusWord (after (exec .initTables { State.reset with env := { State.reset.env with tblOk := false } })) =
        0x00000048#32 := by decide +kernel

/-- R315 (a) to (d): the errors and their priority. -/
theorem test_scale_image_errors :
    [⟨0, 0, 0, 0⟩, ⟨7, 2, 1, 100⟩, ⟨2, 2, 1, 7⟩, ⟨9, 0, 0, 0⟩].map
        (fun r => statusWord (after (exec .scaleImage { State.reset with regs := r }))) =
      [0x00000010#32, 0x00000030#32, 0x00000020#32, 0x00000010#32] := by decide +kernel

/-- R315 (c), V71: the capacity as required starts the scan; one column too many is an error. -/
theorem test_scale_image_starts :
    statusWord (after (exec .scaleImage (programmed 2 2 1 8))) = 0x0000000D#32 ∧
      statusWord (after (exec .scaleImage { State.reset with regs := ⟨2, 4097, 1, 100000⟩ })) = 0x00000010#32 := by
  decide +kernel

/-- R105: codes 0 and 3 change nothing. -/
theorem test_cmd_reserved :
    after (exec (.cmdReserved 0) (programmed 2 3 3 36)) = programmed 2 3 3 36 ∧
      after (exec (.cmdReserved 3) dotMiddle) = dotMiddle := by decide +kernel

/-- R103: the low bits are kept, the other registers too. -/
theorem test_register_writes :
    (after (exec (.wrScale 0x13#32) (programmed 2 5 6 7))).regs = ⟨3, 5, 6, 7⟩ ∧
      (after (exec (.wrWidth 0x10003#32) (programmed 2 5 6 7))).regs = ⟨2, 3, 6, 7⟩ ∧
      (after (exec (.wrHeight 0x10004#32) (programmed 2 5 6 7))).regs = ⟨2, 5, 4, 7⟩ ∧
      (after (exec (.wrDstCap 0x10004#32) (programmed 2 5 6 7))).regs = ⟨2, 5, 6, 0x10004⟩ := by decide +kernel

/-- R38, R103: reads. -/
theorem test_register_reads :
    (after (exec (.rdStatus (.read .status)) dotMiddle)).env.hostData = 0x0000000D#32 ∧
      (after (exec (.rdStatus (.read .dstCap)) (programmed 2 5 6 7))).env.hostData = 7#32 ∧
      (after (exec (.rdStatus (.writeIgnored 0xFF#32)) ready)).status = ready.status := by decide +kernel

/-- R33: the registers that do not exist. -/
theorem test_absent_registers :
    (after (exec (.regNonexistent 6 .read) { ready with env := { ready.env with hostData := 9 } })).env.hostData = 0 ∧
      after (exec (.regNonexistent 6 (.write 9)) ready) = ready := by decide +kernel

/-- R331: reset from idle keeps SRC and DST. -/
theorem test_reset :
    let s := { programmed 2 3 3 36 with src := [(0, 1)], dst := [(5, 7)], status := ⟨false, true, 0⟩ }
    after (exec .reset s) = { State.reset with src := [(0, 1)], dst := [(5, 7)] } := by decide +kernel

/-! ### Steps -/

/-- The word of SCALE_IMAGE, placed, is the first operation after reset; R315 (a). -/
theorem test_first_operation_after_reset :
    statusWord (after (step (State.reset.withFetchWord 8 0x2))) = 0x00000010#32 := by decide +kernel

/-- `poll` while BUSY gives the engine its step and stays; when idle it is over (30_encoding.md R108). -/
theorem test_poll :
    let s := { dotMiddle with env := { dotMiddle.env with inbox := [.poll, .engine] } }
    let t := { ready with env := { ready.env with inbox := [.poll, .engine] } }
    (after (step s)).pos = ⟨1, 2⟩ ∧ (after (step s)).env.inbox = [.poll, .engine] ∧
      (after (step t)).env.inbox = [.engine] := by decide +kernel

/-- A reset with tbl_ok 0 makes the next build fail (60_exceptions.md R308). -/
theorem test_reset_with_pin :
    let s := { ready with env := { ready.env with inbox := [.resetWithPin false] } }
    (after (exec .cstBuild (after (step s)))).status.err = 4#3 := by decide +kernel

/-! ### Witnesses: states and operands that meet the hypotheses of the statements -/

theorem witness_EncodeThenDecode :
    [Instr.cmdReserved 0, .cmdReserved 0xF, .regNonexistent 6 .read, .regNonexistent 0xFFFFFFFF (.write 0),
      .rotOff 2 0 1 1, .rotOff 6 3 5 5, .relay 2 2 2 2, .scalePix 2 0, .scalePix 6 3, .interp 0 0 1 2,
      .interp 0 0 99 100].all Instr.wf = true ∧ decoded (.wr 6 0) = some (.regNonexistent 6 (.write 0)) := by decide

theorem witness_CommandCodeDecides :
    (0xFFFFFFF1#32).toNat % 16 = 1 ∧ (0xFFFFFFF2#32).toNat % 16 = 2 ∧
      (0xFFFFFFF0#32).toNat % 16 ≠ 1 ∧ (0xFFFFFFF0#32).toNat % 16 ≠ 2 ∧
      (3#32).toNat % 16 ≠ 1 ∧ (3#32).toNat % 16 ≠ 2 := by decide

/-- dotMiddle with a host turn waiting. -/
def waiting (t : Slot) : State := { dotMiddle with env := { dotMiddle.env with inbox := [t] } }

theorem witness_StepRunsTheIssuedOperation :
    (waiting (.issue (.wr 0 1))).env.inbox = .issue (.wr 0 1) :: [] ∧ decoded (.wr 0 1) = some .initTables := by decide

theorem witness_EngineTurnRunsTheScan :
    (waiting .engine).env.inbox = .engine :: [] ∧ (waiting .engine).status.busy = true ∧
      (waiting .engine).pos.y.toNat < (waiting .engine).run.h.toNat ∧
      (scanning 2 3 3 0 3).env.inbox = [] ∧ (scanning 2 3 3 0 3).status.busy = true ∧
      (scanning 2 3 3 0 3).run.h.toNat ≤ (scanning 2 3 3 0 3).pos.y.toNat ∧
      (scanning 2 3 3 0 3).env.tainted = false ∧ ready.status.busy = false := by decide

theorem witness_FetchedWordRuns :
    decodeTableWord 8 2 = some .scaleImage ∧ decodeTableWord 32 5 = some (.rdStatus (.read .status)) := by decide

theorem witness_DistIsTheSquaredDistance : ∃ p q : Pixel, p = q := ⟨white, white, rfl⟩

theorem witness_IdentComparesAllBits : rgbOf white = rgbOf 0xFFFFFFFF#32 ∧ white ≠ 0xFFFFFFFF#32 := by decide

/-- The reset state with tbl_ok 0. -/
def pinLow : State := { State.reset with env := { State.reset.env with tblOk := false } }

theorem witness_CstBuildFillsTheTableOnce :
    ready.tables.csValid = true ∧ (pinLow.tables.csValid = false ∧ pinLow.env.tblOk = false) ∧
      (State.reset.tables.csValid = false ∧ State.reset.env.tblOk = true) := by decide

theorem witness_DefaultTableContents :
    ready.tables.cst = .built ∧ ((0xFFFFFF#24).extractLsb' 16 8).toNat = ((0xFFFFFF#24).extractLsb' 8 8).toNat ∧
      ((0xFFFFFF#24).extractLsb' 8 8).toNat = ((0xFFFFFF#24).extractLsb' 0 8).toNat := by decide

theorem witness_RotBuildWritesEveryEntry :
    ready.tables.rotValid = true ∧ State.reset.tables.rotValid = false ∧
      ∃ n r i j : Nat, 2 ≤ n ∧ n ≤ 6 ∧ r < 4 ∧ i < n ∧ j < n ∧ rotIndex hw n r i j = 719 :=
  ⟨rfl, rfl, 6, 3, 5, 5, by decide⟩

theorem witness_RotOffIsTheClosedForm :
    ready.tables.rot = .built ∧ (Instr.rotOff 2 0 0 0).wf = true ∧ (Instr.rotOff 6 3 5 5).wf = true := by decide

theorem witness_FourQuarterTurnsAreTheIdentity :
    ready.tables.rot = .built ∧ ∃ n i j r : Nat, 2 ≤ n ∧ n ≤ 6 ∧ i < n ∧ j < n ∧ r < 4 :=
  ⟨rfl, 6, 5, 5, 3, by decide⟩

theorem witness_BRotRotatesTheFields : ∀ r : Rot, r = 0#2 ∨ r = 1#2 ∨ r = 2#2 ∨ r = 3#2 := by decide

theorem witness_FlatKernelClassifiesNothing :
    ((kernelState 1 2 3 7 7 4 5 9 9 6 7 8).k4.f = (kernelState 1 2 3 7 7 4 5 9 9 6 7 8).k4.g ∧
        (kernelState 1 2 3 7 7 4 5 9 9 6 7 8).k4.j = (kernelState 1 2 3 7 7 4 5 9 9 6 7 8).k4.k) ∧
      (scanning 2 3 2 2 0).pos.x.toNat + 1 = (scanning 2 3 2 2 0).run.w.toNat ∧
      (scanning 2 3 2 0 1).pos.y.toNat + 1 = (scanning 2 3 2 0 1).run.h.toNat := by decide +kernel

/-- The two sums of a kernel state. -/
def sums (s : State) : Nat × Nat := (gradientJg hw (cstRead hw s) s.k4, gradientFk hw (cstRead hw s) s.k4)

/-- V30, V32, V36: a smaller first sum, a smaller second sum, a tie, on kernels that are not flat. -/
theorem witness_ClassifyFollowsTheSmallerGradient :
    flatKernel (kernelState 11 2 11 0 10 2 1 10 2 10 2 10).k4 = false ∧
      sums (kernelState 11 2 11 0 10 2 1 10 2 10 2 10) = (5, 18) ∧
      flatKernel (kernelState 1 10 2 10 0 10 11 2 10 2 11 2).k4 = false ∧
      sums (kernelState 1 10 2 10 0 10 11 2 10 2 11 2) = (18, 5) ∧
      flatKernel (kernelState 5 0 5 0 5 0 0 5 0 5 0 5).k4 = false ∧
      sums (kernelState 5 0 5 0 5 0 0 5 0 5 0 5) = (0, 0) := by decide +kernel

/-- V31 and its mirror: all premises of the four properties. -/
theorem witness_ClassifyMarksOneDiagonal :
    (after (exec .classify (kernelState 11 2 11 0 10 2 1 10 2 10 2 11))).sig.bf ≠ 0#2 ∧
      (after (exec .classify (kernelState 11 2 11 0 10 2 1 10 2 10 2 11))).sig.bk ≠ 0#2 ∧
      (after (exec .classify (kernelState 11 2 11 0 10 2 1 10 2 10 2 11))).sig.flat = false ∧
      (after (exec .classify (kernelState 1 10 2 10 0 11 11 2 10 2 11 2))).sig.bg ≠ 0#2 ∧
      (after (exec .classify (kernelState 1 10 2 10 0 11 11 2 10 2 11 2))).sig.bj ≠ 0#2 := by decide +kernel

theorem witness_RelayWritesInOrder :
    dotMiddle.blend.brow.wf = true ∧ dotMiddle.pos.x.toNat + 1 < dotMiddle.run.w.toNat ∧
      (scanning 2 3 3 2 1).blend.brow.wf = true ∧ ¬(scanning 2 3 3 2 1).pos.x.toNat + 1 < (scanning 2 3 3 2 1).run.w.toNat := by
  decide

theorem dotMiddle_scan : dotMiddle.ScanInRange hw := by constructor <;> decide

/-- The relay holds at (1, 1) of the dot. -/
theorem dotMiddle_relay : dotMiddle.RelayHolds hw where
  done := by
    intro c h
    have h1 : c < 1 := h
    obtain rfl : c = 0 := by omega
    decide +kernel
  here := by decide +kernel
  ahead := by
    intro c h h'
    have h1 : 1 < c := h
    have h3 : c < 3 := h'
    obtain rfl : c = 2 := by omega
    decide +kernel
  carry := by
    intro _
    decide +kernel

theorem witness_RelayDeliversFourClassifications :
    (1 ≤ (scanning 2 3 3 0 0).run.w.toNat ∧ (scanning 2 3 3 0 0).pos = ⟨0, 0⟩ ∧
        ∀ c, c < (scanning 2 3 3 0 0).run.w.toNat → (scanning 2 3 3 0 0).blend.brow.read c = 0#8) ∧
      dotMiddle.ScanInRange hw ∧ dotMiddle.pos.y.toNat < dotMiddle.run.h.toNat ∧ dotMiddle.blend.brow.wf = true ∧
      dotMiddle.RelayHolds hw :=
  ⟨⟨by decide, rfl, fun _ _ => rfl⟩, dotMiddle_scan, by decide, by decide, dotMiddle_relay⟩

/-- The dot before its last pixel. -/
def dotLast : State := { scanning 2 3 3 2 2 with src := [(4, white)], blend := ⟨0x55, [], 0⟩ }

theorem witness_LastPixelLeavesTheRelayEmpty :
    dotLast.ScanInRange hw ∧ dotLast.pos.x.toNat + 1 = dotLast.run.w.toNat ∧
      dotLast.pos.y.toNat + 1 = dotLast.run.h.toNat ∧ dotLast.blend.brow.wf = true ∧ dotLast.RelayHolds hw := by
  refine ⟨by constructor <;> decide, by decide, by decide, by decide, ?_⟩
  constructor
  · intro c h
    have h2 : c < 2 := h
    have : c = 0 ∨ c = 1 := by omega
    obtain rfl | rfl := this <;> decide +kernel
  · decide +kernel
  · intro c h h'
    have h2 : 2 < c := h
    have h3 : c < 3 := h'
    omega
  · intro _
    decide +kernel

theorem witness_InterpIsTheWeightedAverage :
    (Instr.interp white 0 1 2).wf = true ∧ (Instr.interp white 0 99 100).wf = true := by decide

theorem witness_ScaleTwoPatterns :
    (blendState 0 0 0 0 0 0 0 0 0 0).tables.rot = .built ∧ (blendState 0 0 0 0 0 0 0 0 0 0).run.n = 2#4 := by decide

theorem witness_PatternsBlendTheirSubcells :
    pattabLegal hw = true ∧ (scanning 6 3 3 0 0).tables.rot = .built ∧
      legalScale (scanning 6 3 3 0 0).run.n = true ∧ hw.pattab 6 .diag ≠ [] ∧
      (∀ e ∈ hw.pattab 6 .diag, rotN 6 0 (e.row, e.col) ≠ (0, 0)) ∧ legalScale State.reset.run.n = false := by
  decide +kernel

theorem witness_ScalePixWithoutAFieldDoesNothing :
    brOf ((blendState 0x20 0 0 0 0 0 0 0 0 0).blend.bxy.rotateLeft (2 * (2#2).toNat)) = 0#2 ∧
      (blendState 0 0 0 0 0 0 0 0 0 0).blend.bxy = 0#8 := by decide

theorem witness_ScalePixSelectsAndBlends :
    brOf ((blendState 0x10 0 0 0 0 100 0 0 0 0).blend.bxy.rotateLeft (2 * (0#2).toNat)) ≠ 0#2 ∧
      brOf ((blendState 0x80 0 0 0 0 100 0 0 0 0).blend.bxy.rotateLeft (2 * (3#2).toNat)) ≠ 0#2 := by decide

theorem witness_ScalePixStaysInItsBlock :
    ready.tables.rot = .built ∧ legalScale 2 = true ∧ legalScale 6 = true ∧ ∃ i j : Nat, i < 6 ∧ j < 6 ∧ 2 ≤ i :=
  ⟨rfl, rfl, rfl, 2, 0, by decide⟩

theorem witness_BlendedPixelsLieBetween : ready.tables.rot = .built ∧ legalScale 2 = true ∧ legalScale 6 = true := by
  decide

theorem witness_ClampReplicatesTheEdges :
    1 ≤ (scanning 2 1 1 0 0).run.w.toNat ∧ 1 ≤ (scanning 2 1 1 0 0).run.h.toNat := by decide

theorem witness_K4LoadReadsTwelvePixels :
    1 ≤ (scanning 2 1 1 0 0).run.w.toNat ∧ 1 ≤ (scanning 2 1 1 0 0).run.h.toNat := by decide

theorem witness_FillCopiesTheSourcePixel :
    (scanning 6 1 1 0 0).run.n.toNat ≤ 6 ∧ (scanning 2 1 1 0 0).run.n.toNat ≤ 6 := by decide

theorem witness_OutWrStoresTheBlock :
    dotLast.dst.wf = true ∧ dotLast.pos.x.toNat < dotLast.run.w.toNat ∧ dotLast.pos.y.toNat < dotLast.run.h.toNat ∧
      (∃ i j : Nat, i < dotLast.run.n.toNat ∧ j < dotLast.run.n.toNat) ∧ 35 < imageSize dotLast.run ∧
      ∀ i j, i < dotLast.run.n.toNat → j < dotLast.run.n.toNat → outIndex 2 3 2 2 i j ≠ 0 := by
  refine ⟨by decide, by decide, by decide, ⟨1, 1, by decide⟩, by decide, ?_⟩
  intro i j hi hj
  simp [outIndex]

theorem witness_ColStepIsItsEightSubsteps :
    (scanning 2 3 3 0 0).blend.bxy = 0#8 ∧ (after (exec .colStep dotMiddle)).blend.bxy ≠ 0#8 ∧
      (after (exec .colStep (scanning 2 3 3 0 0))).blend.bxy = 0#8 := by decide +kernel

theorem witness_ColStepAdvancesAndKeepsTheRest :
    dotLast.ScanInRange hw ∧ dotLast.pos.y.toNat < dotLast.run.h.toNat ∧ dotLast.dst.wf = true :=
  ⟨by constructor <;> decide, by decide, by decide⟩

theorem witness_InitTablesBuildsBothTables :
    dotMiddle.status.busy = true ∧
      ((after (exec .initTables pinLow)).status.busy = false ∧ (after (exec .initTables pinLow)).status.err = 4#3) ∧
      (State.reset.status.busy = false ∧ State.reset.status.err ≠ 4#3 ∧ State.reset.env.tblOk = true) ∧
      (ready.status.busy = false ∧ ready.status.err ≠ 4#3 ∧ ready.tables.csValid = true) ∧
      pinLow.status.busy = false ∧ pinLow.status.err ≠ 4#3 ∧ pinLow.tables.csValid = false ∧
      pinLow.env.tblOk = false := by decide

/-- Each clause at its boundary: width 0, height 0, width 4097; scale 1 and 7; capacity one short of 2 * 2 * 1 * 2. -/
theorem witness_ScaleImageReportsTheFirstError :
    [⟨2, 0, 1, 8⟩, ⟨2, 1, 0, 8⟩, ⟨2, 4097, 1, 100000⟩, ⟨1, 1, 1, 8⟩, ⟨7, 4096, 1, 8⟩, ⟨2, 2, 1, 7⟩].map (precondition hw) =
      [some .invalidDimension, some .invalidDimension, some .invalidDimension, some .unsupportedScale,
        some .unsupportedScale, some .bufferTooSmall] ∧
      State.reset.status.busy = false ∧ State.reset.status.err ≠ 4#3 := by decide

theorem witness_ScaleImageStartsTheScan :
    (∀ s ∈ [programmed 2 2 1 8, programmed 6 4096 1 147456, { pinLow with regs := ⟨6, 3, 3, 324⟩ }],
      s.status.busy = false ∧ s.status.err ≠ 4#3 ∧ s.blend.brow.wf = true ∧ 1 ≤ s.regs.width.toNat ∧
        s.regs.width.toNat ≤ hw.maxW ∧ 1 ≤ s.regs.height.toNat ∧ 2 ≤ s.regs.scale.toNat ∧ s.regs.scale.toNat ≤ 6 ∧
        s.regs.width.toNat * s.regs.scale.toNat * s.regs.height.toNat * s.regs.scale.toNat ≤ s.regs.dstCap.toNat) ∧
      ready.tables.csValid = true ∧ pinLow.tables.csValid = false ∧ pinLow.env.tblOk = false := by decide

theorem witness_DeadBlockEndsEveryCommand :
    (after (exec .initTables pinLow)).status.busy = false ∧ (after (exec .initTables pinLow)).status.err = 4#3 := by
  decide

theorem witness_BusyBlockIgnoresCommands : dotMiddle.status.busy = true := by decide

theorem witness_AbsentRegistersReadZero : 6 ≤ (6#32).toNat ∧ 6 ≤ (0xFFFFFFFF#32).toNat := by decide

theorem witness_ResetLeavesTheBlockIdle :
    dotMiddle.dst.wf = true ∧ ready.dst.wf = true ∧ ready.status.busy = false ∧ imageSize dotMiddle.run ≤ 36 := by
  decide

theorem witness_OnlyResetClearsTheGuards :
    (∀ slot ∈ (waiting .poll).env.inbox.head?, slot.isReset = false) ∧ (∃ t, step (waiting .poll) = .next t) ∧
      (waiting .poll).tables.csValid = true ∧ (waiting .poll).tables.rotValid = true ∧
      (after (exec .initTables pinLow)).status.err = 4#3 ∧ (after (exec .initTables pinLow)).env.inbox.head? = none :=
  ⟨by decide, ⟨_, rfl⟩, by decide, by decide, by decide, by decide⟩

theorem witness_HostReachesSourceAndDestination :
    ((waiting (.srcStore 8 white)).src.wf = true ∧
        (waiting (.srcStore 8 white)).env.inbox = .srcStore 8 white :: []) ∧
      ((waiting (.dstStore 35 white)).dst.wf = true ∧
        (waiting (.dstStore 35 white)).env.inbox = .dstStore 35 white :: []) ∧
      (ready.status.busy = false ∧
        { ready with env := { ready.env with inbox := [.dstLoad 35] } }.env.inbox = .dstLoad 35 :: []) ∧
      ((waiting (.dstLoad 35)).status.busy = true ∧ (waiting (.dstLoad 35)).env.inbox = .dstLoad 35 :: []) ∧
      ((waiting .poll).env.inbox = .poll :: [] ∧ (waiting .poll).status.busy = true ∧
        (waiting .poll).pos.y.toNat < (waiting .poll).run.h.toNat) ∧
      (scanning 2 3 3 0 3).run.h.toNat ≤ (scanning 2 3 3 0 3).pos.y.toNat ∧
      (waiting (.resetWithPin false)).env.inbox = .resetWithPin false :: [] := by decide

/-- OBLK checked sub-cell by sub-cell. -/
theorem blockSound_of_cells {P : Params} {s : State}
    (h : ∀ i j : Fin 8, P.maxScale ≤ i.val ∨ P.maxScale ≤ j.val → s.oblk.cell i j = 0) : s.BlockSound P :=
  fun i j hi hj => h ⟨i, hi⟩ ⟨j, hj⟩

theorem reset_inv : State.reset.Inv hw where
  canonical := by constructor <;> decide
  tables := by constructor <;> decide
  status := by constructor <;> decide
  scan := by intro h; cases h
  blend := by constructor <;> decide
  regs := by constructor <;> decide
  block := blockSound_of_cells (by decide)
  host := by decide

/-- A scan in progress, with a host turn waiting, meets the invariant. -/
theorem waiting_inv : (waiting (.issue (.wr 0 1))).Inv hw where
  canonical := by constructor <;> decide
  tables := by constructor <;> decide
  status := by constructor <;> decide
  scan := fun _ => by constructor <;> decide
  blend := by constructor <;> decide
  regs := by constructor <;> decide
  block := blockSound_of_cells (by decide)
  host := by decide

theorem dotMiddle_inv : dotMiddle.Inv hw where
  canonical := by constructor <;> decide
  tables := by constructor <;> decide
  status := by constructor <;> decide
  scan := fun _ => dotMiddle_scan
  blend := by constructor <;> decide
  regs := by constructor <;> decide
  block := blockSound_of_cells (by decide)
  host := by decide

/-- A block with other parameters: scales up to 8, so an OBLK of 8 x 8 and other ROTTAB indexes, narrower registers,
a shorter row buffer, one blended sub-cell in every pattern. -/
def wide : Params :=
  { hw with maxScale := 8, dimBits := 8, capBits := 12, maxW := 100, pattab := fun n _ => [mixed (n - 1) (n - 1) 1 2] }

theorem wide_legal : legalParams wide = true ∧ wide.gateBrOnly = false := by decide +kernel

/-- The dot, programmed after reset. -/
def dotAt (regs : Regs) : State := { State.reset with src := [(4, white)], regs := regs }

theorem dotAt_inv (P : Params) (regs : Regs) (h : (dotAt regs).RegsSound P) : (dotAt regs).Inv P where
  canonical := by constructor <;> rfl
  tables := by constructor <;> intro h <;> cases h
  status := ⟨reset_inv.status.code, reset_inv.status.idle, reset_inv.status.fatal, reset_inv.status.done⟩
  scan := by intro h; cases h
  blend := ⟨reset_inv.blend.bxy, reset_inv.blend.carry, fun _ h => nomatch h⟩
  regs := h
  block := blockSound_of_cells fun i j _ => (by decide : ∀ i j : Fin 8, State.reset.oblk.cell i j = 0) i j
  host := reset_inv.host

theorem dotAt_inv_hw : (dotAt ⟨2, 3, 3, 36⟩).Inv hw := dotAt_inv _ _ (by constructor <;> decide)

theorem dotAt_inv_wide : (dotAt ⟨8, 3, 3, 576⟩).Inv wide := dotAt_inv _ _ (by constructor <;> decide)

/-- The dot at scale 8 on the block with the other parameters, its scan just begun. -/
def wideScan : State := after (execWith wide .scaleImage (dotAt ⟨8, 3, 3, 576⟩))

theorem wideScan_range : wideScan.ScanInRange wide := by constructor <;> decide

theorem wideScan_inv : wideScan.Inv wide where
  canonical := by constructor <;> decide
  tables := by constructor <;> decide
  status := by constructor <;> decide
  scan := fun _ => wideScan_range
  blend := ⟨by decide, by decide, fun _ h => nomatch h⟩
  regs := by constructor <;> decide
  block := blockSound_of_cells (by decide)
  host := by decide

theorem witness_InvariantHoldsAtReset : legalParams wide = true := wide_legal.1

theorem witness_EveryStepKeepsTheInvariant :
    (∃ s t : State, s.Inv hw ∧ s.status.busy = true ∧ step s = .next t) ∧
      legalParams wide = true ∧ ∃ s t : State, s.Inv wide ∧ s.status.busy = true ∧ (coreWith wide).step s = .next t :=
  ⟨⟨dotMiddle, _, dotMiddle_inv, rfl, rfl⟩, wide_legal.1, wideScan, _, wideScan_inv, rfl, rfl⟩

theorem witness_NothingAHostDoesStopsTheMachine :
    (waiting (.issue (.wr 0 1))).Inv hw ∧ State.reset.Inv hw ∧ legalParams wide = true ∧ wideScan.Inv wide :=
  ⟨waiting_inv, reset_inv, wide_legal.1, wideScan_inv⟩

theorem witness_RunningCommandEnds :
    (dotMiddle.Inv hw ∧ dotMiddle.status.busy = true ∧ dotMiddle.env.inbox = []) ∧
      legalParams wide = true ∧ wideScan.Inv wide ∧ wideScan.status.busy = true ∧ wideScan.env.inbox = [] :=
  ⟨⟨dotMiddle_inv, rfl, rfl⟩, wide_legal.1, wideScan_inv, rfl, rfl⟩

theorem witness_ScaleImageComputesTheClosedForm :
    ((dotAt ⟨2, 3, 3, 36⟩).Inv hw ∧ (dotAt ⟨2, 3, 3, 36⟩).status.busy = false ∧
      (dotAt ⟨2, 3, 3, 36⟩).status.err ≠ 4#3 ∧ precondition hw (dotAt ⟨2, 3, 3, 36⟩).regs = none ∧
      (dotAt ⟨2, 3, 3, 36⟩).env.tblOk = true ∧ (dotAt ⟨2, 3, 3, 36⟩).env.inbox = []) ∧
    legalParams wide = true ∧ wide.gateBrOnly = false ∧ (dotAt ⟨8, 3, 3, 576⟩).Inv wide ∧
      (dotAt ⟨8, 3, 3, 576⟩).status.busy = false ∧ (dotAt ⟨8, 3, 3, 576⟩).status.err ≠ 4#3 ∧
      precondition wide (dotAt ⟨8, 3, 3, 576⟩).regs = none ∧ (dotAt ⟨8, 3, 3, 576⟩).env.tblOk = true ∧
      (dotAt ⟨8, 3, 3, 576⟩).env.inbox = [] :=
  ⟨⟨dotAt_inv_hw, rfl, by decide, by decide, rfl, rfl⟩, wide_legal.1, rfl, dotAt_inv_wide, rfl, by decide, by decide,
    rfl, rfl⟩

/-- The second block is one with its tables built, something in OBLK and another SRC element outside the image. -/
theorem witness_SameInputSameImage :
    (dotAt ⟨2, 3, 3, 36⟩).Inv hw ∧ (dotAt ⟨2, 3, 3, 36⟩).regs = ⟨2, 3, 3, 36⟩ ∧
      { programmed 2 3 3 36 with
        src := [(4, white), (9, 1)], oblk := fillBlock 6 white State.reset.oblk }.Inv hw ∧
      (∀ c, c < 9 → Memory.read [(4, white), (9, 1#32)] c = (dotAt ⟨2, 3, 3, 36⟩).src.read c) ∧
    legalParams wide = true ∧ (dotAt ⟨8, 3, 3, 576⟩).Inv wide ∧ precondition wide ⟨8, 3, 3, 576⟩ = none := by
  refine ⟨dotAt_inv_hw, rfl, ?_, by decide, wide_legal.1, dotAt_inv_wide, by decide⟩
  constructor
  · constructor <;> rfl
  · constructor <;> intro _ <;> rfl
  · constructor <;> decide
  · intro h
    cases h
  · exact ⟨reset_inv.blend.bxy, reset_inv.blend.carry, reset_inv.blend.brow⟩
  · constructor <;> decide
  · exact blockSound_of_cells (by decide +kernel)
  · exact reset_inv.host

theorem witness_FlatImagesAreReplicated :
    hw.toSizes.legal = true ∧ hw.supports (scanning 6 1 1 0 0).run.n = true ∧ wide.toSizes.legal = true ∧
      wide.supports 8 = true ∧ 0 < (scanning 6 1 1 0 0).run.w.toNat ∧
      (scanning 6 1 1 0 0).run.h.toNat = 1 ∧ (scanning 6 1 1 0 0).run.w.toNat = 1 ∧ 5 < (scanning 6 1 1 0 0).run.n.toNat ∧
      (∀ c, c < (scanning 6 1 1 0 0).run.w.toNat * (scanning 6 1 1 0 0).run.h.toNat →
        (scanning 6 1 1 0 0).src.read c = 0) :=
  ⟨by decide, by decide, by decide, by decide, by decide, rfl, rfl, by decide, fun _ _ => rfl⟩

/-- A white and a black pixel in one row, the white one scanned: DST holds its 2 x 2 copies. -/
def halfRow : State :=
  { scanning 2 2 1 1 0 with src := [(0, white)], dst := [(0, white), (1, white), (4, white), (5, white)] }

theorem halfRow_output : halfRow.OutputHolds hw := by
  intro x y hx hy h i j hi hj
  have hx : x < 2 := hx
  have hy : y < 1 := hy
  have hi : i < 2 := hi
  have hj : j < 2 := hj
  have h : y < 0 ∨ (y = 0 ∧ x < 1) := h
  obtain ⟨rfl, rfl⟩ : x = 0 ∧ y = 0 := by omega
  interval_cases i <;> interval_cases j <;> decide +kernel

theorem halfRow_relay : halfRow.RelayHolds hw where
  done := by
    intro c h
    have h : c < 1 := h
    obtain rfl : c = 0 := by omega
    decide +kernel
  here := by decide +kernel
  ahead := by
    intro c h h'
    have h : 1 < c := h
    have h' : c < 2 := h'
    omega
  carry := by
    intro _
    decide +kernel

theorem wideScan_relay : wideScan.RelayHolds wide where
  done := fun c h => absurd h (Nat.not_lt_zero c)
  here := by decide +kernel
  ahead := by
    intro c h h'
    have h : 0 < c := h
    have h' : c < 3 := h'
    obtain rfl | rfl : c = 1 ∨ c = 2 := by omega
    all_goals decide +kernel
  carry := fun h => absurd h (by decide)

theorem witness_ColStepKeepsTheImageSoFar :
    (halfRow.ScanInRange hw ∧ halfRow.TablesSound ∧ halfRow.Canonical ∧ halfRow.RelayHolds hw ∧
      halfRow.OutputHolds hw ∧ halfRow.pos.y.toNat < halfRow.run.h.toNat) ∧ (scanning 2 2 1 0 0).pos = ⟨0, 0⟩ ∧
    legalParams wide = true ∧ wide.gateBrOnly = false ∧ wideScan.ScanInRange wide ∧ wideScan.TablesSound ∧
      wideScan.Canonical ∧ wideScan.RelayHolds wide ∧ wideScan.OutputHolds wide ∧
      wideScan.pos.y.toNat < wideScan.run.h.toNat :=
  ⟨⟨by constructor <;> decide, by constructor <;> decide, by constructor <;> decide, halfRow_relay, halfRow_output,
    by decide⟩, rfl, wide_legal.1, rfl, wideScan_range, wideScan_inv.tables, wideScan_inv.canonical,
    wideScan_relay, fun _ _ _ _ h => absurd h (by rintro (h | ⟨-, h⟩) <;> exact absurd h (Nat.not_lt_zero _)),
    by decide⟩

theorem witness_ParametersAreConfiguration :
    readsTable .scaleImage = false ∧ readsTable .classify = false ∧ readsTable (.dist 0 1) = false ∧
      readsTable .reset = false ∧ readsTable .colStep = true ∧
      (wide.toSizes.legal = true ∧ ready.tables.rot = .built ∧ wide.minScale ≤ 8 ∧ 8 ≤ wide.maxScale) := by decide

/-! ### Other parameters (00_scope.md R6) -/

/-- A block with another legal table blends what that table says: with empty lists SCALEPIX leaves the block, where
this hardware's corner pattern mixes a sub-cell. -/
theorem test_another_table_blends_as_it_says :
    let s := blendState 0x10 0 0 0 0 100 0 0 0 0
    legalParams (withTable fun _ _ => []) = true ∧
      (after (execWith (withTable fun _ _ => []) (.scalePix 2 0) s)).oblk = s.oblk ∧
      (after (exec (.scalePix 2 0) s)).oblk ≠ s.oblk := by decide +kernel

/-- DIMBITS and CAPBITS are the widths in which the registers store (10_state.md R36, R37). -/
theorem test_other_register_widths :
    (after (execWith wide (.wrWidth 0x1203#32) ready)).regs.width = 0x03#32 ∧
      (after (execWith wide (.wrHeight 0x1203#32) ready)).regs.height = 0x03#32 ∧
      (after (execWith wide (.wrDstCap 0x12345#32) ready)).regs.dstCap = 0x345#32 ∧
      (after (exec (.wrWidth 0x1203#32) ready)).regs.width = 0x1203#32 := by decide +kernel

/-- MINSCALE and MAXSCALE bound the scale (60_exceptions.md R302): 7 and 2 here and on two other blocks. -/
theorem test_other_scales :
    [⟨7, 1, 1, 4000⟩, ⟨2, 1, 1, 4000⟩].map (precondition hw) = [some .unsupportedScale, none] ∧
      [⟨7, 1, 1, 4000⟩, ⟨2, 1, 1, 4000⟩].map (precondition wide) = [none, none] ∧
      [⟨7, 1, 1, 4000⟩, ⟨2, 1, 1, 4000⟩].map (precondition { wide with minScale := 3 }) =
        [none, some .unsupportedScale] ∧
      rejection (.seq (.scalePix 7 0)) = some .illFormed ∧
      (Instr.scalePix 7 0).wfFor wide.toSizes = true := by decide

/-- MAXSCALE sizes ROTTAB (20_memory.md R67, 41_rotation_geometry.md R140): at MAXSCALE 8, the entry of scale 8, step 1,
sub-cell (0, 0) at index ((8 - 2) * 4 + 1) * 64 is (7, 0). -/
theorem test_rottab_of_scale_eight :
    rotRead wide ready 1600 = 0b111000#6 ∧
      (after (execWith wide (.rotOff 8 1 0 0) ready)).ports.rotOff = 0b111000#6 := by decide +kernel

/-- FILL reaches the whole 8 x 8 block (46_driver.md R266). -/
theorem test_fill_at_scale_eight :
    let s := { State.reset with run := ⟨8, 1, 1⟩, k4 := { State.reset.k4 with f := white } }
    let b := (after (execWith wide .fill s)).oblk
    b.cell 7 7 = white ∧ b.cell 0 7 = white ∧ b.cell 7 0 = white := by decide +kernel

end Sys2Proof.Tests
end

section
/-! PROOFS. The scope of the block (00_scope.md): a step runs the operation issued to it (R12), and the parameters of R6
are configuration. -/

namespace Sys2Proof.Machine

/-- A step that finds an issue which decodes runs the operation on the state whose inbox has moved on. -/
theorem step_of_issue {s : State} {e : Issue} {rest : List Slot} {i : Instr} (hs : s.env.inbox = .issue e :: rest)
    (he : decode e = .ok i) : step s = exec i (takeSlot rest s) :=
  calc step s = issueOp hw.toSizes exec e (takeSlot rest s) := turnOp_issue hs
    _ = exec i (takeSlot rest s) := issueOp_ok he (takeSlot rest s)

/-- R67 writes the table's index with a square, `rotIndex` with a product. -/
theorem rotIndex_eq_sq (P : Params) (n r i j : Nat) :
    rotIndex P n r i j = ((n - 2) * 4 + r) * P.maxScale ^ 2 + i * P.maxScale + j := by
  rw [rotIndex, Nat.pow_two]

/-- The built table holds the rotation transform at the index of each supported entry (41_rotation_geometry.md R141). -/
theorem rotRead_rotIndex_of_built {P : Params} (hP : P.toSizes.legal = true) {s : State}
    (hs : s.tables.rot = .built) {n r i j : Nat} (hn : P.minScale ≤ n ∧ n ≤ P.maxScale) (hr : r < 4) (hi : i < n)
    (hj : j < n) :
    rotRead P s (rotIndex P n r i j) = packRot (rotN n r (i, j)).1 (rotN n r (i, j)).2 := by
  rw [rotRead, hs]
  exact builtRot_rotIndex hP hn hr hi hj

/-- An operation that does not read PATTAB is this hardware's with any table: no other parameter differs, and the
operations that read PATTAB are those `readsTable` names. -/
theorem execWith_withTable {i : Instr} (h : readsTable i = false) (tab : Nat → Pattern → List Entry) (s : State) :
    execWith (withTable tab) i s = exec i s := by
  cases i with
  | patCorner | patDiag | patShallow | patSteep | patBoth | scalePix | colStep => exact absurd h (by simp [readsTable])
  | _ => rfl

/-- Settles O5: the turn of an issue, then the decoded issue. -/
theorem stepRunsTheIssuedOperation : Obligations.StepRunsTheIssuedOperation :=
  fun _ _ _ _ hs he => step_of_issue hs he

/-- Settles O60: the values of `hw`, `execWith`, `coreWith` and `decodeFor` at them, the built ROTTAB of any legal sizes,
and the operations that read no PATTAB. -/
theorem parametersAreConfiguration : Obligations.ParametersAreConfiguration := by
  refine ⟨⟨rfl, rfl, rfl, rfl, rfl, rfl, rfl, rfl, rfl, rfl, rfl, rfl, legal_hw⟩, execWith_hw, coreWith_step_hw,
    fun _ => rfl, ?rottab, withTable_hw, fun tab _ s h => execWith_withTable h tab s⟩
  case rottab =>
    intro P s n r i j hP hs hmin hmax hr hi hj
    have hn2 : 2 ≤ n := (scale_range hP ⟨hmin, hmax⟩).1
    rw [← rotIndex_eq_sq, Nat.pow_two]
    exact ⟨rotIndex_lt ⟨hn2, hmax⟩ hr hi hj, rotRead_rotIndex_of_built hP hs ⟨hmin, hmax⟩ hr hi hj⟩

end Sys2Proof.Machine
end

section
/-! PROOFS. The registers of the host (10_state.md): what the CMD code names (R34), which registers read and store
nothing (R33), and the STATUS word (R38). -/

namespace Sys2Proof.Machine

/-! ### What a host access does -/

/-- A register read delivers the register to the host. -/
theorem exec_read (reg : HostReg) (s : State) :
    exec (.rdStatus (.read reg)) s = .next (deliver (registerRead s reg) s) := rfl

theorem exec_writeStatus (v : HostWord) (s : State) : exec (.rdStatus (.writeIgnored v)) s = .next s := rfl

theorem exec_absentRead (reg : HostWord) (s : State) :
    exec (.regNonexistent reg .read) s = .next (deliver 0#32 s) := rfl

theorem exec_absentWrite (reg v : HostWord) (s : State) : exec (.regNonexistent reg (.write v)) s = .next s := rfl

theorem exec_cmdReserved (word : HostWord) (s : State) : exec (.cmdReserved word) s = .next s := rfl

/-! ### What a host access is decoded to -/

/-- A write of register 0 is read as a CMD word. -/
theorem decode_writeCmd (word : HostWord) : decode (.wr 0#32 word) = .ok (decodeCmd word) := rfl

/-- The code field of a CMD word, as a number. -/
theorem cmdCode_eq_iff (word : HostWord) (code : BitVec 4) :
    word.extractLsb' 0 4 = code ↔ word.toNat % 16 = code.toNat := by
  rw [← BitVec.toNat_inj, BitVec.extractLsb'_toNat, Nat.shiftRight_zero]

theorem decodeCmd_of_code_one {word : HostWord} (h : word.toNat % 16 = 1) : decodeCmd word = .initTables :=
  if_pos ((cmdCode_eq_iff word 1#4).mpr h)

theorem decodeCmd_of_code_two {word : HostWord} (h : word.toNat % 16 = 2) : decodeCmd word = .scaleImage := by
  have hcode : word.extractLsb' 0 4 = 2#4 := (cmdCode_eq_iff word 2#4).mpr h
  simp [decodeCmd, hcode]

theorem decodeCmd_of_reserved {word : HostWord} (h1 : word.toNat % 16 ≠ 1) (h2 : word.toNat % 16 ≠ 2) :
    decodeCmd word = .cmdReserved word := by
  have hinit : word.extractLsb' 0 4 ≠ 1#4 := mt (cmdCode_eq_iff word 1#4).mp h1
  have hscale : word.extractLsb' 0 4 ≠ 2#4 := mt (cmdCode_eq_iff word 2#4).mp h2
  rw [decodeCmd, if_neg hinit, if_neg hscale]

/-- A register number of 6 and above is absent in both directions: each access is the encoding of the absent register's
own operation, which decodes to itself. -/
theorem decode_absent {reg : HostWord} (h : 6 ≤ reg.toNat) (v : HostWord) :
    decode (.rd reg) = .ok (.regNonexistent reg .read) ∧
      decode (.wr reg v) = .ok (.regNonexistent reg (.write v)) :=
  ⟨Laws.EncodeDecode.regNonexistent reg .read (decide_eq_true h),
    Laws.EncodeDecode.regNonexistent reg (.write v) (decide_eq_true h)⟩

/-! ### The STATUS word -/

/-- The STATUS word as a number: each field at its own weight, and nothing above bit 6. -/
theorem statusWord_toNat (s : State) :
    (statusWord s).toNat = s.status.busy.toNat + 2 * s.status.done.toNat + 4 * s.tables.csValid.toNat +
      8 * s.tables.rotValid.toNat + 16 * s.status.err.toNat := by
  simp only [statusWord, toNat_concat, BitVec.toNat_ofBool, BitVec.toNat_ofNat]
  omega

/-! ### The obligations -/

/-- Settles O46: the read delivers `statusWord`, whose value is the weighted sum of its fields. -/
theorem statusWordHasItsFields : Obligations.StatusWordHasItsFields :=
  fun s => ⟨statusWord s, exec_read .status s, statusWord_toNat s⟩

/-- Settles O4: the write is decoded by its code field, and a reserved code is executed as nothing. -/
theorem commandCodeDecides : Obligations.CommandCodeDecides := by
  intro word s
  refine ⟨fun h => ?_, fun h => ?_, fun h1 h2 => ?_, exec_cmdReserved word s⟩
  · rw [decode_writeCmd, decodeCmd_of_code_one h]
  · rw [decode_writeCmd, decodeCmd_of_code_two h]
  · rw [decode_writeCmd, decodeCmd_of_reserved h1 h2]

/-- Settles O47: CMD is read as the word 0, and the accesses of STATUS and of the absent registers each have an
operation that stores nothing. -/
theorem absentRegistersReadZero : Obligations.AbsentRegistersReadZero := by
  intro s reg v
  refine ⟨exec_read .cmd s, exec_writeStatus v s, fun h => ?_⟩
  obtain ⟨hread, hwrite⟩ := decode_absent h v
  exact ⟨hread, hwrite, exec_absentRead reg s, exec_absentWrite reg v s⟩

end Sys2Proof.Machine
end

section
/-! PROOFS. The encodings (30_encoding.md R102 to R106): which issues the decoder reads as an operation, that each
well-formed operation is read back from its encoding, and the eight codes of PATSEL. -/

namespace Sys2Proof

/-! ### What the decoder answers is well formed -/

theorem wfFor_decodeCmd (z : Sizes) (word : HostWord) : (decodeCmd word).wfFor z = true := by
  unfold decodeCmd
  split
  case isTrue => rfl
  case isFalse hinit =>
    split
    case isTrue => rfl
    case isFalse hscale => simp [Instr.wfFor, hinit, hscale]

theorem wfFor_decodeWr (z : Sizes) (reg value : HostWord) : (decodeWr reg value).wfFor z = true := by
  unfold decodeWr
  split_ifs with hcmd
  · exact wfFor_decodeCmd z value
  case neg => exact decide_eq_true (by bv_omega)
  all_goals rfl

theorem wfFor_decodeRd (z : Sizes) (reg : HostWord) : (decodeRd reg).wfFor z = true := by
  unfold decodeRd
  split_ifs
  case neg => exact decide_eq_true (by bv_omega)
  all_goals rfl

theorem wfFor_patternInstr (z : Sizes) (p : Pattern) : (patternInstr p).wfFor z = true := by
  cases p <;> rfl

/-- A sequencer place is read as the operation it carries, if that is a well-formed one of format SEQ (R102, log 31). -/
theorem decodeFor_seq_eq_ok_iff {z : Sizes} {op i : Instr} :
    decodeFor z (.seq op) = .ok i ↔ op.format = .seq ∧ op.wfFor z = true ∧ op = i := by
  by_cases hseq : op.format = .seq
  · by_cases hwf : op.wfFor z = true
    · simp [decodeFor, hseq, hwf]
    · simp [decodeFor, hseq, hwf]
  · simp [decodeFor, hseq]

/-- The decoder answers nothing but well-formed operations (log 26). -/
theorem wfFor_of_decodeFor {z : Sizes} {e : Issue} {i : Instr} (h : decodeFor z e = .ok i) : i.wfFor z = true := by
  cases e with
  | wr reg value => exact Except.ok.inj h ▸ wfFor_decodeWr z reg value
  | rd reg => exact Except.ok.inj h ▸ wfFor_decodeRd z reg
  | patsel sel => exact Except.ok.inj h ▸ wfFor_patternInstr z (patternOfSel sel)
  | seq op =>
    obtain ⟨-, hwf, rfl⟩ := decodeFor_seq_eq_ok_iff.mp h
    exact hwf

/-! ### Encoding, then decoding -/

/-- A well-formed operation is read back from its encoding on a block of any sizes. A host access and a pattern select
are decoded without the sizes, so this hardware's case is theirs; every other operation is of format SEQ. -/
theorem decodeFor_encode {z : Sizes} {i : Instr} (h : i.wfFor z = true) : decodeFor z (encode i) = .ok i := by
  cases i with
  | initTables | scaleImage | wrScale | wrWidth | wrHeight | wrDstCap => rfl
  | patCorner | patDiag | patShallow | patSteep | patBoth => rfl
  | cmdReserved word => exact Laws.EncodeDecode.cmdReserved word h
  | rdStatus form =>
    cases form with
    | read reg => exact Laws.EncodeDecode.rdStatus (.read reg) h
    | writeIgnored value => rfl
  | regNonexistent reg form =>
    cases form with
    | read => exact Laws.EncodeDecode.regNonexistent reg .read h
    | write value => exact Laws.EncodeDecode.regNonexistent reg (.write value) h
  | _ => exact decodeFor_seq_eq_ok_iff.mpr ⟨rfl, h, rfl⟩

/-- Settles O1: `decodeFor_encode` and `wfFor_of_decodeFor`, for this hardware's sizes and for any. -/
theorem encodeThenDecode : Obligations.EncodeThenDecode :=
  ⟨fun _ h => decodeFor_encode h,
    fun _ _ h => ⟨wfFor_of_decodeFor h, decodeFor_encode (wfFor_of_decodeFor h)⟩,
    fun _ _ _ => ⟨decodeFor_encode, wfFor_of_decodeFor⟩⟩

/-- Settles O2: the decoder run on each word. -/
theorem specWordsDecode : Obligations.SpecWordsDecode :=
  ⟨rfl, rfl, rfl, rfl, rfl, rfl, rfl, rfl, rfl, rfl, rfl, rfl, rfl, rfl⟩

end Sys2Proof

namespace Sys2Proof.Machine

/-! ### The pattern select (R106) -/

theorem decode_patsel (sel : BitVec 3) : decode (.patsel sel) = .ok (patternInstr (patternOfSel sel)) := rfl

theorem getLsbD_patSel (line shallow steep : Bool) :
    (patSel line shallow steep).getLsbD 2 = line ∧ (patSel line shallow steep).getLsbD 1 = shallow ∧
      (patSel line shallow steep).getLsbD 0 = steep := by
  revert line shallow steep
  decide

/-- Settles O3: each bit of PATSEL is read as the signal it was made of. -/
theorem eightCodesSelectFivePatterns : Obligations.EightCodesSelectFivePatterns := by
  intro line shallow steep
  obtain ⟨hline, hshallow, hsteep⟩ := getLsbD_patSel line shallow steep
  have hpattern : patternOfSel (patSel line shallow steep) =
      if line then
        (if shallow then (if steep then .both else .shallow) else (if steep then .steep else .diag))
      else .corner := by
    rw [patternOfSel, hline, hshallow, hsteep]
  rw [decode_patsel, hpattern]
  simp only [apply_ite patternInstr]
  rfl

end Sys2Proof.Machine
end

section
/-! PROOFS. The register file written and read back (10_state.md R33 to R37, 30_encoding.md R103), and the commands a
busy block ignores (R105, 60_exceptions.md R311). -/

namespace Sys2Proof.Machine

theorem toNat_scaleBits (v : HostWord) : (scaleBits v).toNat = v.toNat % 2 ^ 4 := BitVec.toNat_setWidth ..

/-- SCALE is delivered zero-extended. -/
theorem toNat_registerRead_scale (s : State) : (registerRead s .scale).toNat = s.regs.scale.toNat :=
  BitVec.toNat_setWidth_of_le (by decide)

/-- A read of a register with value n delivers the word n and changes nothing else, whatever the parameters. -/
theorem execWith_read_of_toNat {s : State} {reg : HostReg} {n : Nat} (h : (registerRead s reg).toNat = n)
    (P : Params) :
    execWith P (.rdStatus (.read reg)) s =
      .next { s with env := { s.env with hostData := BitVec.ofNat 32 n } } := by
  have hword : registerRead s reg = BitVec.ofNat 32 n := BitVec.eq_of_toNat_eq (by simp [← h])
  rw [← hword]
  rfl

theorem execWith_hw_eq_exec : execWith hw = exec := funext fun i => funext (execWith_hw i)

/-- Settles O45: each write stores the low bits (`toNat_scaleBits`, `toNat_dimensionBits`, `toNat_capacityBits`), and
the read of the register it leaves delivers their value; this hardware is the case of `hw`. -/
theorem registersReadBackTheirLowBits : Obligations.RegistersReadBackTheirLowBits := by
  unfold Obligations.RegistersReadBackTheirLowBits
  intro claim
  have hany : ∀ P : Params, claim P (execWith P) := fun P s v =>
    ⟨{ s with regs := { s.regs with scale := scaleBits v } }, setWidthOp P v s, setHeightOp P v s, setDstCapOp P v s,
      rfl, rfl, toNat_scaleBits v,
      rfl, rfl, toNat_dimensionBits P v,
      rfl, rfl, toNat_dimensionBits P v,
      rfl, rfl, toNat_capacityBits P v,
      execWith_read_of_toNat ((toNat_registerRead_scale _).trans (toNat_scaleBits v)) P,
      execWith_read_of_toNat (s := setWidthOp P v s) (reg := .width) (toNat_dimensionBits P v) P,
      execWith_read_of_toNat (s := setHeightOp P v s) (reg := .height) (toNat_dimensionBits P v) P,
      execWith_read_of_toNat (s := setDstCapOp P v s) (reg := .dstCap) (toNat_capacityBits P v) P⟩
  exact ⟨hw_dimBits, hw_capBits, execWith_hw_eq_exec ▸ hany hw, hany⟩

theorem initTablesOp_of_busy {s : State} (h : s.status.busy = true) : initTablesOp s = s := if_pos h

theorem scaleImageOp_of_busy (P : Params) {s : State} (h : s.status.busy = true) : scaleImageOp P s = s := if_pos h

/-- Settles O44: neither command gets past its test of BUSY. -/
theorem busyBlockIgnoresCommands : Obligations.BusyBlockIgnoresCommands :=
  fun _ hbusy => ⟨congrArg _ (initTablesOp_of_busy hbusy), congrArg _ (scaleImageOp_of_busy hw hbusy)⟩

end Sys2Proof.Machine
end

section
/-! PROOFS. The host's own turns (30_encoding.md R108): stores and loads of SRC and DST, `poll`, and the reset that sets
the level of tbl_ok. -/

namespace Sys2Proof.Machine

/-! ### Loads (20_memory.md R72) -/

theorem dstLoadOp_of_idle {s : State} (h : s.status.busy = false) (a : Nat) :
    dstLoadOp a s = deliver (s.dst.read a) s := by
  simp [dstLoadOp, h]

/-- A load changes the word the host holds and the count of the free values drawn, and nothing else. -/
theorem dstLoadOp_frame (a : Nat) (s : State) :
    dstLoadOp a s = { s with env := { s.env with
      hostData := (dstLoadOp a s).env.hostData
      draws := (dstLoadOp a s).env.draws } } := by
  unfold dstLoadOp
  split <;> rfl

/-! ### The engine's step and `poll` (46_driver.md R290, 30_encoding.md R108) -/

theorem engineStep_of_scanning (P : Params) {s : State} (hbusy : s.status.busy = true)
    (hrow : s.pos.y.toNat < s.run.h.toNat) : engineStep P s = colStepOp P s := by
  rw [engineStep, if_pos hbusy, if_pos hrow]

theorem engineStep_of_scanned (P : Params) {s : State} (hbusy : s.status.busy = true)
    (hrow : s.run.h.toNat ≤ s.pos.y.toNat) : engineStep P s = finishOp s := by
  rw [engineStep, if_pos hbusy, if_neg (Nat.not_lt.mpr hrow)]

theorem finishOp_of_untainted {s : State} (h : s.env.tainted = false) :
    finishOp s = { s with status := { s.status with busy := false, done := true } } := by
  simp [finishOp, h]

theorem pollOp_of_idle (P : Params) {s : State} (h : s.status.busy = false) :
    pollOp P s = takeSlot s.env.inbox.tail (deliver (statusWord s) s) := by
  simp [pollOp, h]

theorem pollOp_of_busy (P : Params) {s : State} (h : s.status.busy = true) :
    pollOp P s = engineStep P (deliver (statusWord s) s) := by
  simp [pollOp, h]

/-! ### Reset (70_reset_and_hazards.md R330) -/

theorem resetOp_status (s : State) : (resetOp s).status = { busy := false, done := false, err := 0#3 } := rfl

/-- Reset leaves the level of tbl_ok, in a running command too. -/
theorem resetOp_tblOk (s : State) : (resetOp s).env.tblOk = s.env.tblOk := by
  unfold resetOp
  split <;> rfl

/-! ### The turns -/

section

variable {s : State} {rest : List Slot}

/-- A store to SRC is read back where it was stored and nowhere else (R60, R340). -/
theorem step_srcStore {a : BitVec 32} {p : Pixel} (hwf : s.src.wf = true) (h : s.env.inbox = .srcStore a p :: rest) :
    ∃ t, step s = .next t ∧
      t = { s with
        src := t.src
        env := { s.env with
          inbox := rest
          tainted := s.env.tainted || (s.status.busy && decide (a.toNat < s.run.w.toNat * s.run.h.toNat)) } } ∧
      t.src.wf = true ∧ ∀ c, t.src.read c = if c = a.toNat then p else s.src.read c := by
  refine ⟨_, (turnOp_srcStore h).trans (congrArg _ (srcStoreOp_eq ..)), rfl, ?_, ?_⟩
  · exact Memory.wf_write hwf a.toNat p
  · exact Memory.read_write hwf a.toNat p

/-- A store to DST is read back where it was stored and nowhere else (R60, R71). -/
theorem step_dstStore {a : BitVec 32} {p : Pixel} (hwf : s.dst.wf = true) (h : s.env.inbox = .dstStore a p :: rest) :
    ∃ t, step s = .next t ∧
      t = { s with
        dst := t.dst
        env := { s.env with
          inbox := rest
          tainted := s.env.tainted || (s.status.busy && decide (a.toNat < imageSize s.run)) } } ∧
      t.dst.wf = true ∧ ∀ c, t.dst.read c = if c = a.toNat then p else s.dst.read c := by
  refine ⟨_, (turnOp_dstStore h).trans (congrArg _ (dstStoreOp_eq ..)), rfl, ?_, ?_⟩
  · exact Memory.wf_write hwf a.toNat p
  · exact Memory.read_write hwf a.toNat p

theorem step_dstLoad {a : BitVec 32} (h : s.env.inbox = .dstLoad a :: rest) :
    step s = .next (dstLoadOp a.toNat (takeSlot rest s)) := turnOp_dstLoad h

/-- A load from the idle block delivers the element (R72, log 19). -/
theorem step_dstLoad_of_idle {a : BitVec 32} (h : s.env.inbox = .dstLoad a :: rest) (hidle : s.status.busy = false) :
    step s = .next (deliver (s.dst.read a.toNat) (takeSlot rest s)) :=
  (step_dstLoad h).trans (congrArg _ (dstLoadOp_of_idle (s := takeSlot rest s) hidle a.toNat))

theorem step_poll (h : s.env.inbox = .poll :: rest) : step s = .next (pollOp hw s) := turnOp_poll h

/-- A poll that finds the block idle leaves the inbox. -/
theorem step_poll_of_idle (h : s.env.inbox = .poll :: rest) (hidle : s.status.busy = false) :
    step s = .next (takeSlot rest (deliver (statusWord s) s)) := by
  rw [step_poll h, pollOp_of_idle hw hidle, h, List.tail_cons]

/-- A poll that finds the block busy lets the engine have its step. -/
theorem step_poll_of_busy (h : s.env.inbox = .poll :: rest) (hbusy : s.status.busy = true) :
    step s = .next (engineStep hw (deliver (statusWord s) s)) := by
  rw [step_poll h, pollOp_of_busy hw hbusy]

theorem step_resetWithPin {pin : Bool} (h : s.env.inbox = .resetWithPin pin :: rest) :
    step s = .next (resetOp { s with env := { s.env with inbox := rest, tblOk := pin } }) := turnOp_resetWithPin h

end

/-- Settles O51: the turn of each host slot, by the rules above. -/
theorem hostReachesSourceAndDestination : Obligations.HostReachesSourceAndDestination := by
  refine ⟨fun s a p rest hwf h => step_srcStore hwf h, fun s a p rest hwf h => step_dstStore hwf h, ?load, ?poll,
    ?reset⟩
  case load =>
    intro s a rest h
    exact ⟨step_dstLoad_of_idle h, _, step_dstLoad h, dstLoadOp_frame ..⟩
  case poll =>
    intro s rest h
    refine ⟨_, exec_read .status s, step_poll_of_idle h, fun hbusy hrow => ?_, fun hbusy hrow hclean => ?_⟩
    · exact (step_poll_of_busy h hbusy).trans (congrArg _ (engineStep_of_scanning hw hbusy hrow))
    · rw [step_poll_of_busy h hbusy, engineStep_of_scanned hw (s := deliver (statusWord s) s) hbusy hrow,
        finishOp_of_untainted (s := deliver (statusWord s) s) hclean]
      rfl
  case reset =>
    intro s pin rest h
    exact ⟨step_resetWithPin h, _, step_resetWithPin h, resetOp_tblOk _, resetOp_status _⟩

end Sys2Proof.Machine
end

section
/-! PROOFS. The color-distance LUT and comparator (40_color_metric.md): what DIST, EQ and IDENT deliver, each as a
function of `distance`, and the three cases of CSTBUILD. -/

namespace Sys2Proof.Machine

/-! ### The distance as a function of the two RGB values (R124, R126, R130) -/

/-- The distance in signed arithmetic (R124). -/
theorem distance_cast (T : Rgb → Ycc) (p q : Pixel) :
    (distance T p q : Int) =
      (((lumaOf (T (rgbOf p))).toNat : Int) - (lumaOf (T (rgbOf q))).toNat) ^ 2 +
        (((chromaBlueOf (T (rgbOf p))).toNat : Int) - (chromaBlueOf (T (rgbOf q))).toNat) ^ 2 +
        (((chromaRedOf (T (rgbOf p))).toNat : Int) - (chromaRedOf (T (rgbOf q))).toNat) ^ 2 := by
  rw [distance_eq, Nat.cast_add, Nat.cast_add]
  simp only [sqDiff_eq, sq]

/-- The distance depends on the RGB values only (R126). -/
theorem distance_congr_rgbOf (T : Rgb → Ycc) {p p' q q' : Pixel} (hp : rgbOf p = rgbOf p')
    (hq : rgbOf q = rgbOf q') : distance T p q = distance T p' q' := by
  rw [distance_eq, distance_eq, hp, hq]

theorem distance_eq_zero_of_rgbOf_eq (T : Rgb → Ycc) {p q : Pixel} (h : rgbOf p = rgbOf q) : distance T p q = 0 :=
  (distance_congr_rgbOf T h rfl).trans (distance_self T q)

/-! ### What the comparator's operations deliver -/

theorem exec_dist (s : State) (p q : Pixel) :
    exec (.dist p q) s =
      .next { s with ports := { s.ports with dist := BitVec.ofNat 18 (distance (cstRead hw s) p q) } } := rfl

/-- EQ delivers the strict comparison of the distance with 900 (R125). -/
theorem exec_eqTol (s : State) (p q : Pixel) :
    exec (.eqTol p q) s =
      .next { s with ports := { s.ports with eqTol := decide (distance (cstRead hw s) p q < 900) } } := by
  rw [← colorEqual_hw]
  rfl

/-- DIST and EQ see their operands only through the distance. -/
theorem exec_dist_eqTol_congr {s : State} {p p' q q' : Pixel}
    (h : distance (cstRead hw s) p q = distance (cstRead hw s) p' q') :
    exec (.dist p q) s = exec (.dist p' q') s ∧ exec (.eqTol p q) s = exec (.eqTol p' q') s :=
  ⟨by rw [exec_dist, exec_dist, h], by rw [exec_eqTol, exec_eqTol, h]⟩

/-- DIST and EQ are symmetric (R124 (b), R125). -/
theorem exec_dist_eqTol_comm (s : State) (p q : Pixel) :
    exec (.dist q p) s = exec (.dist p q) s ∧ exec (.eqTol q p) s = exec (.eqTol p q) s :=
  exec_dist_eqTol_congr (distance_comm _ q p)

/-- At distance 0, DIST delivers 0 and EQ holds. -/
theorem exec_dist_eqTol_of_distance_eq_zero {s : State} {p q : Pixel} (h : distance (cstRead hw s) p q = 0) :
    exec (.dist p q) s = .next { s with ports := { s.ports with dist := 0#18 } } ∧
      exec (.eqTol p q) s = .next { s with ports := { s.ports with eqTol := true } } := by
  rw [exec_dist, exec_eqTol, h]
  exact ⟨rfl, rfl⟩

/-- IDENT delivers the equality of all 32 bits (R127). -/
theorem exec_ident (s : State) (p q : Pixel) :
    exec (.ident p q) s = .next { s with ports := { s.ports with ident := decide (p = q) } } := rfl

/-! ### The statements about the comparator -/

/-- Settles O8: the 18-bit output holds the distance (`toNat_distance`), whose signed form is `distance_cast`. -/
theorem distIsTheSquaredDistance : Obligations.DistIsTheSquaredDistance := by
  intro s p q
  have hd := toNat_distance (cstRead hw s) p q
  refine ⟨BitVec.ofNat 18 (distance (cstRead hw s) p q), exec_dist s p q, ?symmetric, ?value, ?bound, ?self⟩
  case symmetric => exact (exec_dist_eqTol_comm s p q).1.trans (exec_dist s p q)
  case value => rw [hd, distance_cast]
  case bound => exact hd.le.trans (distance_le (cstRead hw s) p q)
  case self =>
    rintro rfl
    rw [distance_self]

/-- Settles O9: EQ compares the very distance that DIST delivers (`exec_eqTol`, `toNat_distance`). -/
theorem eqIsDistanceBelowTolerance : Obligations.EqIsDistanceBelowTolerance := by
  intro s p q
  refine ⟨BitVec.ofNat 18 (distance (cstRead hw s) p q), exec_dist s p q, ?strict, (exec_dist_eqTol_comm s p q).2, ?self⟩
  case strict => rw [toNat_distance, exec_eqTol]
  case self => exact (exec_dist_eqTol_of_distance_eq_zero (distance_self _ p)).2

/-- Settles O10: replacing alpha leaves the RGB values (`rgbOf_append`), hence the distance. -/
theorem alphaIsNotSeenByDistOrEq : Obligations.AlphaIsNotSeenByDistOrEq :=
  fun _ p q a a' => exec_dist_eqTol_congr (distance_congr_rgbOf _ (rgbOf_append a p) (rgbOf_append a' q))

/-- Settles O11: IDENT by `exec_ident`; equal RGB values are at distance 0 whatever their alphas. -/
theorem identComparesAllBits : Obligations.IdentComparesAllBits :=
  fun s p q => ⟨exec_ident s p q, fun hrgb =>
    exec_dist_eqTol_of_distance_eq_zero (distance_eq_zero_of_rgbOf_eq _ hrgb)⟩

/-! ### CSTBUILD (R121) -/

theorem cstBuildOp_of_valid {s : State} (h : s.tables.csValid = true) : cstBuildOp s = s := if_pos h

theorem cstBuildOp_of_tblOk {s : State} (h : s.tables.csValid = false) (hok : s.env.tblOk = true) :
    cstBuildOp s = { s with tables := { s.tables with cst := .built, csValid := true } } := by
  simp [cstBuildOp, h, hok]

theorem cstBuildOp_of_not_tblOk {s : State} (h : s.tables.csValid = false) (hok : s.env.tblOk = false) :
    cstBuildOp s = raise .tableInitFailure s := by
  simp [cstBuildOp, h, hok]

/-- Every entry of the built table is the parameter's (R121, R122). -/
theorem cstRead_of_built (P : Params) {s : State} (h : s.tables.cst = .built) (v : Rgb) :
    cstRead P s v = P.cstab v := by
  rw [cstRead, h]

theorem exec_cstBuild (s : State) : exec .cstBuild s = .next (cstBuildOp s) := rfl

/-- Settles O12: the guard, the failure and the build of R121; the state that is built has a valid table, so the guard
answers a second CSTBUILD. -/
theorem cstBuildFillsTheTableOnce : Obligations.CstBuildFillsTheTableOnce := by
  intro s
  refine ⟨fun hvalid => ?guard, fun hvalid hok => ?failure, fun hvalid hok => ?build⟩
  case guard => rw [exec_cstBuild, cstBuildOp_of_valid hvalid]
  case failure =>
    rw [exec_cstBuild, cstBuildOp_of_not_tblOk hvalid hok]
    rfl
  case build =>
    refine ⟨_, exec_cstBuild s, cstBuildOp_of_tblOk hvalid hok, fun v => ?_, ?_⟩
    · exact cstRead_of_built hw (by rw [cstBuildOp_of_tblOk hvalid hok]) v
    · rw [exec_cstBuild, cstBuildOp_of_valid (by rw [cstBuildOp_of_tblOk hvalid hok])]

end Sys2Proof.Machine
end

section
/-! PROOFS. The rotation geometry (41_rotation_geometry.md): the transform is an action of four quarter turns on the
grid, ROTBUILD and ROTOFF carry it into the table and out of it, KROT and BROT turn the kernel and the byte. -/

namespace Sys2Proof.Machine

/-! ### Quarter turns compose (R140, R142) -/

theorem rotN_add (n r t : Nat) (p : Nat × Nat) : rotN n (r + t) p = rotN n r (rotN n t p) := by
  induction r with
  | zero => rw [Nat.zero_add, rotN]
  | succ r ih => rw [Nat.succ_add, rotN, rotN, ih]

/-- Two half turns return a sub-cell to its place (R142). -/
theorem rotN_four {n : Nat} {p : Nat × Nat} (hp : p.1 < n ∧ p.2 < n) : rotN n 4 p = p := by
  obtain ⟨i, j⟩ := p
  obtain ⟨hi, hj⟩ := hp
  have hhalf : ∀ {a b : Nat}, b < n → rotN n 2 (a, b) = (n - 1 - a, n - 1 - b) := fun hb => (rotN_closed hb).2.2.1
  calc rotN n 4 (i, j) = rotN n 2 (rotN n 2 (i, j)) := rotN_add n 2 2 (i, j)
    _ = (n - 1 - (n - 1 - i), n - 1 - (n - 1 - j)) := by rw [hhalf hj, hhalf (by omega)]
    _ = (i, j) := by congr 1 <;> omega

/-- The quarter turns that are left to four lead to the one preimage of a sub-cell (R142). -/
theorem rotN_rotN_four_sub {n r : Nat} (hr : r ≤ 4) {p : Nat × Nat} (hp : p.1 < n ∧ p.2 < n) :
    rotN n r (rotN n (4 - r) p) = p := by
  rw [← rotN_add, Nat.add_sub_cancel' hr, rotN_four hp]

/-- The transform of a rotation step as one expression in the step (R140). -/
theorem rotN_eq_ite (r : Rot) {n i j : Nat} (hj : j < n) :
    rotN n r.toNat (i, j) =
      if r = 0#2 then (i, j) else if r = 1#2 then (n - 1 - j, i)
      else if r = 2#2 then (n - 1 - i, n - 1 - j) else (j, n - 1 - i) := by
  obtain ⟨h0, h1, h2, h3⟩ := rotN_closed (i := i) hj
  rcases rot_cases r with rfl | rfl | rfl | rfl
  · exact h0
  · exact h1
  · exact h2
  · exact h3

/-! ### What ROTBUILD and ROTOFF do (R141, R143) -/

theorem rotBuildOp_of_valid {s : State} (h : s.tables.rotValid = true) : rotBuildOp s = s := if_pos h

theorem rotBuildOp_of_not_valid {s : State} (h : s.tables.rotValid = false) :
    rotBuildOp s = { s with tables := { s.tables with rot := .built, rotValid := true } } := by
  simp [rotBuildOp, h]

theorem exec_rotBuild (s : State) : exec .rotBuild s = .next (rotBuildOp s) := rfl

theorem exec_rotOff (n : Scale) (r : Rot) (row col : BitVec 3) (s : State) :
    exec (.rotOff n r row col) s =
      .next { s with ports := { s.ports with rotOff := rotEntry hw s n.toNat r.toNat row.toNat col.toNat } } := rfl

/-- The operands ROTOFF takes: a supported scale and a sub-cell of its grid. -/
theorem wf_rotOff_iff (n : Scale) (r : Rot) (row col : BitVec 3) :
    (Instr.rotOff n r row col).wf = true ↔
      (2 ≤ n.toNat ∧ n.toNat ≤ 6) ∧ row.toNat < n.toNat ∧ col.toNat < n.toNat := by
  rw [← legalScale_iff, ← decide_eq_true_iff (p := _ ∧ col.toNat < n.toNat), ← Bool.and_eq_true]
  rfl

/-- The index of an entry on this hardware, where MAXSCALE is 6 (20_memory.md R67). -/
theorem rotIndex_hw (n r i j : Nat) : rotIndex hw n r i j = ((n - 2) * 4 + r) * 36 + i * 6 + j := by
  rw [rotIndex, hw_maxScale]

/-- Settles O14: the guard of R141; on the built table the entry's index names its scale, step and sub-cell
(`rotRead_rotIndex_of_built`). -/
theorem rotBuildWritesEveryEntry : Obligations.RotBuildWritesEveryEntry := by
  intro s
  refine ⟨fun hvalid => ?guard, fun hvalid => ?build⟩
  case guard => rw [exec_rotBuild, rotBuildOp_of_valid hvalid]
  case build =>
    refine ⟨_, exec_rotBuild s, rotBuildOp_of_not_valid hvalid, fun n r i j hmin hmax hr hi hj => ?_⟩
    have hbuilt : (rotBuildOp s).tables.rot = .built := by rw [rotBuildOp_of_not_valid hvalid]
    rw [← rotIndex_hw]
    exact rotRead_rotIndex_of_built sizes_legal_hw hbuilt ⟨hmin, hmax⟩ hr hi hj

/-- Settles O15: the entry read holds the transform (`rotOffset_built`), whose closed form is `rotN_eq_ite`. -/
theorem rotOffIsTheClosedForm : Obligations.RotOffIsTheClosedForm := by
  intro s n r row col
  refine ⟨_, exec_rotOff n r row col s, fun hs hwf => ?_⟩
  obtain ⟨hn, hrow, hcol⟩ := (wf_rotOff_iff n r row col).mp hwf
  have hoff : rotOffset hw s n.toNat r.toNat row.toNat col.toNat = rotN n.toNat r.toNat (row.toNat, col.toNat) :=
    rotOffset_built sizes_legal_hw hs hn r.isLt hrow hcol
  rw [rotN_eq_ite r hcol] at hoff
  exact hoff

/-- Settles O16: through the built table each turn is `rot1`, so four of them are `rotN_four`; a rotation step is onto
by `rotN_rotN_four_sub` and one to one by `rotN_inj`. -/
theorem fourQuarterTurnsAreTheIdentity : Obligations.FourQuarterTurnsAreTheIdentity := by
  intro s n i j hs hmin hmax hi hj turn
  have hp : ((i, j) : Nat × Nat).1 < n ∧ ((i, j) : Nat × Nat).2 < n := ⟨hi, hj⟩
  have hoff : ∀ {r : Nat}, r < 4 → ∀ {q : Nat × Nat}, q.1 < n ∧ q.2 < n → rotOffset hw s n r q.1 q.2 = rotN n r q :=
    fun hr _ hq => rotOffset_built sizes_legal_hw hs ⟨hmin, hmax⟩ hr hq.1 hq.2
  have hturn : ∀ r, turn (rotN n r (i, j)) = rotN n (r + 1) (i, j) := fun r => hoff (by decide) (rotN_lt r hp)
  refine ⟨?identity, fun r hr => ?bijective⟩
  case identity =>
    calc turn (turn (turn (turn (i, j)))) = rotN n 4 (i, j) := by
          rw [← hturn 3, ← hturn 2, ← hturn 1, ← hturn 0, rotN]
      _ = (i, j) := rotN_four hp
  case bijective =>
    have hback := rotN_lt (4 - r) hp
    have honto := rotN_rotN_four_sub hr.le hp
    rw [hoff hr hp]
    refine ⟨(rotN_lt r hp).1, (rotN_lt r hp).2, _, _, hback.1, hback.2, (hoff hr hback).trans honto, ?_⟩
    intro i'' j'' hi'' hj'' h
    have hq : ((i'', j'') : Nat × Nat).1 < n ∧ ((i'', j'') : Nat × Nat).2 < n := ⟨hi'', hj''⟩
    have heq : (i'', j'') = rotN n (4 - r) (i, j) :=
      rotN_inj r hq hback (((hoff hr hq).symm.trans h).trans honto.symm)
    exact Prod.mk.inj heq

/-! ### The kernel's names (R145) -/

theorem exec_kRot (r : Rot) (name : KName) (s : State) :
    exec (.kRot r name) s = .next { s with ports := { s.ports with kRot := kernelRead s.k3 r name } } := rfl

/-- Settles O17: at each rotation step every name's read evaluates to the entry of R145's table. -/
theorem kRotReadsThePermutedName : Obligations.KRotReadsThePermutedName := by
  intro s r name
  rw [exec_kRot]
  rcases rot_cases r with rfl | rfl | rfl | rfl
  · cases name <;> rfl
  · cases name <;> rfl
  · cases name <;> rfl
  · cases name <;> rfl

/-! ### The fields of the rotated byte (R146, R147) -/

theorem exec_bRot (b : BlendInfo) (r : Rot) (s : State) :
    exec (.bRot b r) s = .next { s with ports := { s.ports with bRot := rotateBlend b r } } := rfl

/-- Two steps move each field two places. -/
theorem fields_rotateBlend_two (b : BlendInfo) :
    brOf (rotateBlend b 2#2) = tlOf b ∧ trOf (rotateBlend b 2#2) = blOf b ∧
      blOf (rotateBlend b 2#2) = trOf b ∧ tlOf (rotateBlend b 2#2) = brOf b := by
  obtain ⟨hbr, htr, hbl, htl⟩ := fields_rotateBlend_one b
  obtain ⟨hbr', htr', hbl', htl'⟩ := fields_rotateBlend_one (rotateBlend b 1#2)
  rw [rotateBlend_two]
  exact ⟨hbr'.trans htr, htr'.trans htl, hbl'.trans hbr, htl'.trans hbl⟩

/-- Three steps move each field three places. -/
theorem fields_rotateBlend_three (b : BlendInfo) :
    brOf (rotateBlend b 3#2) = blOf b ∧ trOf (rotateBlend b 3#2) = brOf b ∧
      blOf (rotateBlend b 3#2) = tlOf b ∧ tlOf (rotateBlend b 3#2) = trOf b := by
  obtain ⟨hbr, htr, hbl, htl⟩ := fields_rotateBlend_two b
  obtain ⟨hbr', htr', hbl', htl'⟩ := fields_rotateBlend_one (rotateBlend b 2#2)
  rw [rotateBlend_three]
  exact ⟨hbr'.trans htr, htr'.trans htl, hbl'.trans hbr, htl'.trans hbl⟩

/-- Settles O18: the byte by `rotateBlend_eq_rotateLeft`, the fields by one field lemma for each rotation step. -/
theorem bRotRotatesTheFields : Obligations.BRotRotatesTheFields := by
  intro s b r
  refine ⟨rotateBlend b r, exec_bRot b r s, rotateBlend_eq_rotateLeft b r, ?_, ?_, ?_, ?_⟩
  · rintro rfl
    exact rotateBlend_zero b
  · rintro rfl
    exact fields_rotateBlend_one b
  · rintro rfl
    exact fields_rotateBlend_two b
  · rintro rfl
    exact fields_rotateBlend_three b

end Sys2Proof.Machine
end

section
/-! PROOFS. What CLASSIFY marks (42_corner_classifier.md R161 to R168): one equation for each outcome of its comparison,
and the left-right mirror. -/

namespace Sys2Proof.Machine

/-! ### The outcomes of the comparison (R163 to R165) -/

/-- A corner behind its guard: type t where p differs from its two neighbours q and r (R163, R164). -/
def guarded (p q r : Pixel) (t : BlendType) : BlendType := if p ≠ q ∧ p ≠ r then t else 0#2

/-- The guard as the model writes it. -/
theorem ite_identical_eq_guarded (p q r : Pixel) (t : BlendType) :
    (if !identical p q && !identical p r then t else 0) = guarded p q r t := by
  simp [identical, guarded]

theorem guarded_comm (p q r : Pixel) (t : BlendType) : guarded p q r t = guarded p r q t := by
  simp only [guarded, and_comm]

theorem guarded_ne_zero {p q r : Pixel} {t : BlendType} (h : guarded p q r t ≠ 0#2) :
    (p ≠ q ∧ p ≠ r) ∧ guarded p q r t = t :=
  have hne := (ite_ne_right_iff.mp h).1
  ⟨hne, if_pos hne⟩

/-- What a smaller jg marks, with type t: f and k (R163). -/
def markFK (k : Kernel4) (t : BlendType) : Corners where
  f := guarded k.f k.g k.j t
  g := 0#2
  j := 0#2
  k := guarded k.k k.j k.g t

/-- What a smaller fk marks, with type t: g and j (R164). -/
def markGJ (k : Kernel4) (t : BlendType) : Corners where
  f := 0#2
  g := guarded k.g k.f k.k t
  j := guarded k.j k.f k.k t
  k := 0#2

section
variable {P : Params} {T : Rgb → Ycc} {k : Kernel4}

theorem corners_of_jg_lt (hflat : flatKernel k = false) (h : gradientJg P T k < gradientFk P T k) :
    corners P T k = markFK k (strength (dominant P (gradientJg P T k) (gradientFk P T k))) := by
  simp only [corners, hflat, h, if_true, ite_identical_eq_guarded, markFK]
  rfl

theorem corners_of_fk_lt (hflat : flatKernel k = false) (h : gradientFk P T k < gradientJg P T k) :
    corners P T k = markGJ k (strength (dominant P (gradientFk P T k) (gradientJg P T k))) := by
  simp only [corners, hflat, h, h.not_gt, if_true, if_false, ite_identical_eq_guarded, markGJ]
  rfl

theorem corners_of_jg_eq_fk (h : gradientJg P T k = gradientFk P T k) : corners P T k = ⟨0, 0, 0, 0⟩ := by
  simp [corners, h]

end

/-- All that CLASSIFY can answer: nothing, or one diagonal of the centre with one type. -/
theorem corners_cases (P : Params) (T : Rgb → Ycc) (k : Kernel4) :
    corners P T k = ⟨0, 0, 0, 0⟩ ∨ (∃ t, corners P T k = markFK k t) ∨ ∃ t, corners P T k = markGJ k t := by
  cases hflat : flatKernel k with
  | true => exact .inl (corners_flat P T hflat)
  | false =>
    rcases lt_trichotomy (gradientJg P T k) (gradientFk P T k) with h | h | h
    · exact .inr (.inl ⟨_, corners_of_jg_lt hflat h⟩)
    · exact .inl (corners_of_jg_eq_fk h)
    · exact .inr (.inr ⟨_, corners_of_fk_lt hflat h⟩)

/-- Both diagonals are never marked (R168 (a)). -/
theorem corners_one_diagonal (P : Params) (T : Rgb → Ycc) (k : Kernel4) :
    (corners P T k).f ≠ 0#2 ∨ (corners P T k).k ≠ 0#2 → (corners P T k).g = 0#2 ∧ (corners P T k).j = 0#2 := by
  rcases corners_cases P T k with h | ⟨t, h⟩ | ⟨t, h⟩
  · rw [h]; exact fun _ => ⟨rfl, rfl⟩
  · rw [h]; exact fun _ => ⟨rfl, rfl⟩
  · rw [h]; simp [markGJ]

/-- The two marked corners of a diagonal carry one type (R168 (b)). -/
theorem corners_one_strength (P : Params) (T : Rgb → Ycc) (k : Kernel4) :
    ((corners P T k).f ≠ 0#2 → (corners P T k).k ≠ 0#2 → (corners P T k).f = (corners P T k).k) ∧
      ((corners P T k).g ≠ 0#2 → (corners P T k).j ≠ 0#2 → (corners P T k).g = (corners P T k).j) := by
  have hguards : ∀ {p q r p' q' r' t}, guarded p q r t ≠ 0#2 → guarded p' q' r' t ≠ 0#2 →
      guarded p q r t = guarded p' q' r' t :=
    fun h h' => (guarded_ne_zero h).2.trans (guarded_ne_zero h').2.symm
  rcases corners_cases P T k with h | ⟨t, h⟩ | ⟨t, h⟩
  · rw [h]; exact ⟨fun _ _ => rfl, fun _ _ => rfl⟩
  · rw [h]; exact ⟨hguards, fun _ _ => rfl⟩
  · rw [h]; exact ⟨fun _ _ => rfl, hguards⟩

/-- A marked f differs from both its neighbours (R168 (c)). -/
theorem corners_f_ne_neighbours (P : Params) (T : Rgb → Ycc) (k : Kernel4) :
    (corners P T k).f ≠ 0#2 → k.f ≠ k.g ∧ k.f ≠ k.j := by
  rcases corners_cases P T k with h | ⟨t, h⟩ | ⟨t, h⟩
  · rw [h]; exact fun hf => absurd rfl hf
  · rw [h]; exact fun hf => (guarded_ne_zero hf).1
  · rw [h]; exact fun hf => absurd rfl hf

/-! ### The left-right mirror (R168 (d)) -/

/-- The kernel with left and right exchanged. -/
def Kernel4.mirror (k : Kernel4) : Kernel4 where
  b := k.c
  c := k.b
  e := k.h
  f := k.g
  g := k.f
  h := k.e
  i := k.l
  j := k.k
  k := k.j
  l := k.i
  n := k.o
  o := k.n

/-- The results with left and right exchanged. -/
def Corners.mirror (c : Corners) : Corners := ⟨c.g, c.f, c.k, c.j⟩

theorem flatKernel_mirror (k : Kernel4) : flatKernel k.mirror = flatKernel k := by
  rw [Bool.eq_iff_iff, flatKernel_iff, flatKernel_iff]
  simp only [Kernel4.mirror, eq_comm, and_comm]

theorem gradientJg_mirror (P : Params) (T : Rgb → Ycc) (k : Kernel4) :
    gradientJg P T k.mirror = gradientFk P T k := by
  simp only [gradientJg, gradientFk, Kernel4.mirror, distance_comm T k.l, distance_comm T k.g k.b,
    distance_comm T k.o, distance_comm T k.j k.e, distance_comm T k.k k.f]
  omega

theorem gradientFk_mirror (P : Params) (T : Rgb → Ycc) (k : Kernel4) :
    gradientFk P T k.mirror = gradientJg P T k :=
  (gradientJg_mirror P T k.mirror).symm

theorem markFK_mirror (k : Kernel4) (t : BlendType) : markFK k.mirror t = (markGJ k t).mirror := by
  simp only [markFK, markGJ, Kernel4.mirror, Corners.mirror, guarded_comm k.j]

theorem markGJ_mirror (k : Kernel4) (t : BlendType) : markGJ k.mirror t = (markFK k t).mirror :=
  congrArg Corners.mirror (markFK_mirror k.mirror t).symm

theorem corners_mirror (P : Params) (T : Rgb → Ycc) (k : Kernel4) :
    corners P T k.mirror = (corners P T k).mirror := by
  cases hflat : flatKernel k with
  | true => rw [corners_flat P T hflat, corners_flat P T ((flatKernel_mirror k).trans hflat)]; rfl
  | false =>
    have hflat' := (flatKernel_mirror k).trans hflat
    have hjg := gradientJg_mirror P T k
    have hfk := gradientFk_mirror P T k
    rcases lt_trichotomy (gradientJg P T k) (gradientFk P T k) with h | h | h
    · rw [corners_of_jg_lt hflat h, corners_of_fk_lt hflat' (by rwa [hjg, hfk]), hjg, hfk, markGJ_mirror]
    · rw [corners_of_jg_eq_fk h, corners_of_jg_eq_fk (by rw [hjg, hfk, h])]; rfl
    · rw [corners_of_fk_lt hflat h, corners_of_jg_lt hflat' (by rwa [hjg, hfk]), hjg, hfk, markFK_mirror]

/-! ### What CLASSIFY drives -/

theorem exec_classify (s : State) : exec .classify s = .next (classifyOp hw s) := rfl

theorem exec_k4Load (s : State) : exec .k4Load s = .next (k4LoadOp s) := rfl

/-- CLASSIFY changes its own signals only; the corners are the results of R160. -/
theorem classifyOp_frame (P : Params) (s : State) :
    classifyOp P s = { s with sig := { s.sig with
      flat := flatKernel s.k4
      jg := (classifyOp P s).sig.jg
      fk := (classifyOp P s).sig.fk
      dom := (classifyOp P s).sig.dom
      bf := (corners P (cstRead P s) s.k4).f
      bg := (corners P (cstRead P s) s.k4).g
      bj := (corners P (cstRead P s) s.k4).j
      bk := (corners P (cstRead P s) s.k4).k } } := rfl

section
variable {P : Params} {s : State} (hflat : flatKernel s.k4 = false)
include hflat

theorem classifyOp_jg : (classifyOp P s).sig.jg = BitVec.ofNat 21 (gradientJg P (cstRead P s) s.k4) :=
  if_neg (by simp [hflat])

theorem classifyOp_fk : (classifyOp P s).sig.fk = BitVec.ofNat 21 (gradientFk P (cstRead P s) s.k4) :=
  if_neg (by simp [hflat])

theorem classifyOp_dom_of_jg_lt (h : gradientJg P (cstRead P s) s.k4 < gradientFk P (cstRead P s) s.k4) :
    (classifyOp P s).sig.dom =
      dominant P (gradientJg P (cstRead P s) s.k4) (gradientFk P (cstRead P s) s.k4) := by
  simp [classifyOp, hflat, h]

theorem classifyOp_dom_of_fk_lt (h : gradientFk P (cstRead P s) s.k4 < gradientJg P (cstRead P s) s.k4) :
    (classifyOp P s).sig.dom =
      dominant P (gradientFk P (cstRead P s) s.k4) (gradientJg P (cstRead P s) s.k4) := by
  simp [classifyOp, hflat, h, h.not_gt]

end

/-- A gradient sum fits in the 21 bits of its signal (R167). -/
theorem toNat_ofNat_gradient {n : Nat} (h : n ≤ 1560600) : (BitVec.ofNat 21 n).toNat = n := by
  rw [BitVec.toNat_ofNat]
  exact Nat.mod_eq_of_lt (by omega)

/-- The threshold 3.6 of this hardware, in integers (R166). -/
theorem strength_dominant_hw (low high : Nat) :
    strength (dominant hw low high) = if 18 * low < 5 * high then 2#2 else 1#2 := by
  simp only [strength, dominant, decide_eq_true_eq]
  rfl

/-! ### The statements about the classifier -/

/-- Settles O19: no corner of a flat kernel is marked (`corners_flat`), and the kernels of the last column and the last
row are flat (`cornersAt_edge`). -/
theorem flatKernelClassifiesNothing : Obligations.FlatKernelClassifiesNothing := by
  refine ⟨fun s hs => ?flat, fun s hs => ?edge⟩
  case flat =>
    have hflat := (flatKernel_iff s.k4).mpr hs
    have hframe := classifyOp_frame hw s
    rw [hflat, corners_flat hw (cstRead hw s) hflat] at hframe
    exact ⟨_, exec_classify s, hframe⟩
  case edge =>
    have hnone : corners hw (cstRead hw (k4LoadOp s)) (k4LoadOp s).k4 = ⟨0, 0, 0, 0⟩ := cornersAt_edge hw s _ _ hs
    exact ⟨_, _, exec_k4Load s, exec_classify _, congrArg Corners.f hnone, congrArg Corners.g hnone,
      congrArg Corners.j hnone, congrArg Corners.k hnone⟩

/-- Settles O20: the widths by `gradient_le`; each outcome of the comparison has its equation of `corners`. -/
theorem classifyFollowsTheSmallerGradient : Obligations.ClassifyFollowsTheSmallerGradient := by
  intro s hs
  have hflat : flatKernel s.k4 = false := by rwa [← flatKernel_iff, Bool.not_eq_true] at hs
  have hframe := classifyOp_frame hw s
  rw [hflat] at hframe
  obtain ⟨hjg, hfk⟩ := gradient_le (cstRead hw s) s.k4
  refine ⟨_, exec_classify s, hframe, ?jg, ?fk, fun h => ?jgSmaller, fun h => ?fkSmaller, fun h => ?equal⟩
  case jg => rw [classifyOp_jg hflat, toNat_ofNat_gradient hjg]; rfl
  case fk => rw [classifyOp_fk hflat, toNat_ofNat_gradient hfk]; rfl
  case jgSmaller =>
    have hcorners := corners_of_jg_lt (P := hw) (T := cstRead hw s) hflat h
    rw [strength_dominant_hw] at hcorners
    exact ⟨classifyOp_dom_of_jg_lt hflat h, congrArg Corners.f hcorners, congrArg Corners.k hcorners,
      congrArg Corners.g hcorners, congrArg Corners.j hcorners⟩
  case fkSmaller =>
    have hcorners := corners_of_fk_lt (P := hw) (T := cstRead hw s) hflat h
    rw [strength_dominant_hw] at hcorners
    exact ⟨classifyOp_dom_of_fk_lt hflat h, congrArg Corners.j hcorners, congrArg Corners.g hcorners,
      congrArg Corners.f hcorners, congrArg Corners.k hcorners⟩
  case equal =>
    have hcorners : corners hw (cstRead hw s) s.k4 = ⟨0, 0, 0, 0⟩ := corners_of_jg_eq_fk h
    exact ⟨congrArg Corners.f hcorners, congrArg Corners.g hcorners, congrArg Corners.j hcorners,
      congrArg Corners.k hcorners⟩

/-- Settles O21: (a) to (c) from the three answers of `corners_cases`, the mirror by `corners_mirror`. -/
theorem classifyMarksOneDiagonal : Obligations.ClassifyMarksOneDiagonal := by
  intro s
  have hmirror := corners_mirror hw (cstRead hw s) s.k4
  obtain ⟨hfk, hgj⟩ := corners_one_strength hw (cstRead hw s) s.k4
  refine ⟨_, _, exec_classify s, exec_classify { s with k4 := s.k4.mirror }, corners_one_diagonal _ _ _, hfk, hgj,
    corners_f_ne_neighbours _ _ _, congrArg Corners.f hmirror, congrArg Corners.g hmirror, congrArg Corners.j hmirror,
    congrArg Corners.k hmirror, flatKernel_mirror s.k4, fun hflat => ?sums⟩
  case sums =>
    have hflat' := (flatKernel_mirror s.k4).trans hflat
    rw [classifyOp_jg hflat, classifyOp_fk hflat, classifyOp_jg hflat', classifyOp_fk hflat']
    exact ⟨congrArg _ (gradientJg_mirror ..), congrArg _ (gradientFk_mirror ..)⟩

end Sys2Proof.Machine
end

section
/-! PROOFS. The relay of the corner classifications (43_blend_pipeline.md R181 to R188): what RELAY writes, and the
invariant of BROW and CARRY along a scan, for any parameters. -/

namespace Sys2Proof.Machine

/-! ### What RELAY writes (R181 to R185) -/

theorem exec_relay (bf bg bj bk : BlendType) (s : State) :
    exec (.relay bf bg bj bk) s = .next (relayOp bf bg bj bk s) := rfl

/-- A byte with one field set (R185). -/
theorem setTl_zero (t : BlendType) : setTl 0#8 t = packBlend 0#2 0#2 0#2 t := by
  revert t; decide

/-- RELAY changes the blend state only; BXY and CARRY are replaced whole (R182, R185). -/
theorem relayOp_frame (bf bg bj bk : BlendType) (s : State) :
    relayOp bf bg bj bk s = { s with blend :=
      { bxy := setBr (s.blend.brow.read s.pos.x.toNat) bf
        brow := (relayOp bf bg bj bk s).blend.brow
        carry := setTl 0#8 bk } } := rfl

/-- Settles O22: `relayOp_frame`, and BROW slot by slot by `read_relayOp`. -/
theorem relayWritesInOrder : Obligations.RelayWritesInOrder := by
  intro s bf bg bj bk hwf
  have hframe := relayOp_frame bf bg bj bk s
  rw [setTl_zero] at hframe
  exact ⟨_, (exec_relay bf bg bj bk s).trans (congrArg _ hframe), wf_relayOp hwf bf bg bj bk,
    read_relayOp hwf bf bg bj bk⟩

/-! ### The byte of a pixel by its four classifications (R188) -/

section
variable (P : Params) (s : State) (x y : Nat)

/-- The row above the image marks nothing. -/
theorem topFields_row_zero : topFields P s x 0 = 0#8 := by
  simp [topFields, packBlend]

/-- The top fields of the row below y come from the classifications of row y. -/
theorem topFields_row_succ :
    topFields P s x (y + 1) =
      packBlend 0#2 0#2 (cornersAt P s x y).j (if 1 ≤ x then (cornersAt P s (x - 1) y).k else 0#2) := by
  simp [topFields]

/-- In column 0 nothing comes from the left. -/
theorem setBl_topFields_col_zero : setBl (topFields P s 0 y) (leftField P s 0 y) = topFields P s 0 y :=
  setBl_packBlend ..

theorem leftField_succ : leftField P s (x + 1) y = (cornersAt P s x y).g := rfl

theorem blendAt_eq_packBlend :
    blendAt P s x y = packBlend (leftField P s x y) (cornersAt P s x y).f
      (if 1 ≤ y then (cornersAt P s x (y - 1)).j else 0#2)
      (if 1 ≤ x ∧ 1 ≤ y then (cornersAt P s (x - 1) (y - 1)).k else 0#2) := by
  rw [blendAt, topFields, setBl_packBlend, setBr_packBlend]

theorem topFields_colStepOp : topFields P (colStepOp P s) x y = topFields P s x y := by
  simp only [topFields, cornersAt_colStepOp]

theorem leftField_colStepOp : leftField P (colStepOp P s) x y = leftField P s x y := by
  simp only [leftField, cornersAt_colStepOp]

end

/-! ### What COLSTEP does to the relay -/

section
variable {P : Params} {s : State}

/-- The relay before the first COLSTEP: BROW below the width at 0 (46_driver.md R285). -/
theorem relayHolds_of_start (P : Params) (hwidth : 1 ≤ s.run.w.toNat) (hpos : s.pos = ⟨0, 0⟩)
    (hzero : ∀ c, c < s.run.w.toNat → s.blend.brow.read c = 0#8) : s.RelayHolds P := by
  have hx : s.pos.x.toNat = 0 := by rw [hpos]; rfl
  have hy : s.pos.y.toNat = 0 := by rw [hpos]; rfl
  constructor
  case done => intro c hc; omega
  case here => rw [hx, hy, setBl_topFields_col_zero, topFields_row_zero]; exact hzero 0 hwidth
  case ahead => intro c _ hc; rw [hy, topFields_row_zero]; exact hzero c hc
  case carry => intro h; omega

/-- CARRY after the row start: k of the pixel to the left, nothing in column 0 (R28, R281). -/
theorem State.RelayHolds.rowStart_carry (h : s.RelayHolds P) :
    (rowStartOp s).blend.carry =
      setTl 0#8 (if 1 ≤ s.pos.x.toNat then (cornersAt P s (s.pos.x.toNat - 1) s.pos.y.toNat).k else 0#2) := by
  by_cases hx : s.pos.x = 0
  · rw [rowStartOp, if_pos hx, hx, if_neg (by decide)]; rfl
  · have hx1 : 1 ≤ s.pos.x.toNat := Nat.pos_of_ne_zero fun h0 => hx (BitVec.eq_of_toNat_eq h0)
    rw [rowStartOp, if_neg hx, if_pos hx1, h.carry hx1]

/-- The slot COLSTEP leaves behind holds the top fields of the pixel below (R183). -/
theorem State.RelayHolds.flushed (h : s.RelayHolds P) :
    setTr (rowStartOp s).blend.carry (cornersAt P s s.pos.x.toNat s.pos.y.toNat).j =
      topFields P s s.pos.x.toNat (s.pos.y.toNat + 1) := by
  rw [h.rowStart_carry, setTl_zero, setTr_packBlend, topFields_row_succ]

/-- BROW after COLSTEP, slot by slot: up to x the top fields of the next row, at x + 1 those of this row with g of the
pixel just classified, beyond that those of this row (R183, R184). -/
theorem State.RelayHolds.read_brow_colStepOp (h : s.RelayHolds P) (hwf : s.blend.brow.wf = true) {c : Nat}
    (hc : c < s.run.w.toNat) :
    (colStepOp P s).blend.brow.read c =
      if c ≤ s.pos.x.toNat then topFields P s c (s.pos.y.toNat + 1)
      else if c = s.pos.x.toNat + 1 then setBl (topFields P s c s.pos.y.toNat) (leftField P s c s.pos.y.toNat)
      else topFields P s c s.pos.y.toNat := by
  rw [colStepOp_blend, read_relayOp (by rwa [rowStartOp_brow]), rowStartOp_pos, rowStartOp_run, rowStartOp_brow,
    h.flushed]
  obtain hlt | rfl | hgt := Nat.lt_trichotomy c s.pos.x.toNat
  · rw [if_neg hlt.ne, if_neg (by omega), if_pos hlt.le, h.done c hlt]
  · rw [if_pos rfl, if_pos le_rfl]
  · rw [if_neg hgt.ne', if_neg hgt.not_ge, h.ahead c hgt hc]
    by_cases hnext : c = s.pos.x.toNat + 1
    · rw [if_pos ⟨hnext, hc⟩, if_pos hnext, hnext, leftField_succ]
    · rw [if_neg (fun hand => hnext hand.1), if_neg hnext]

/-- BXY after COLSTEP is the byte of the pixel (R188). -/
theorem State.RelayHolds.bxy_colStepOp (h : s.RelayHolds P) :
    (colStepOp P s).blend.bxy = blendAt P s s.pos.x.toNat s.pos.y.toNat := by
  rw [colStepOp_blend, relayOp_frame, rowStartOp_pos, rowStartOp_brow, h.here]
  rfl

/-- CARRY after COLSTEP is k of the pixel (R185). -/
theorem carry_colStepOp (P : Params) (s : State) :
    (colStepOp P s).blend.carry = setTl 0#8 (cornersAt P s s.pos.x.toNat s.pos.y.toNat).k := by
  rw [colStepOp_blend, relayOp_frame]

/-- COLSTEP keeps the relay, along a row and from its end to the start of the next. -/
theorem State.RelayHolds.colStep (h : s.RelayHolds P) (hwf : s.blend.brow.wf = true)
    (hx : s.pos.x.toNat < s.run.w.toNat) (hy : s.pos.y.toNat < s.run.h.toNat) :
    (colStepOp P s).RelayHolds P := by
  have hread := fun {c} => h.read_brow_colStepOp hwf (c := c)
  obtain ⟨hnext, hx', hy'⟩ | ⟨hlast, hx', hy'⟩ := colStepOp_position P hx hy
  · constructor <;>
      simp only [hx', hy', colStepOp_run, topFields_colStepOp, leftField_colStepOp, cornersAt_colStepOp]
    case done => intro c hc; rw [hread (by omega), if_pos (by omega)]
    case here => rw [hread hnext, if_neg (by omega), if_pos rfl]
    case ahead => intro c hxc hc; rw [hread hc, if_neg (by omega), if_neg (by omega)]
    case carry => intro _; exact carry_colStepOp P s
  · constructor <;> simp only [hx', hy', colStepOp_run, topFields_colStepOp, leftField_colStepOp]
    case done => intro c hc; omega
    case here => rw [setBl_topFields_col_zero, hread (by omega), if_pos (by omega)]
    case ahead => intro c _ hc; rw [hread hc, if_pos (by omega)]
    case carry => intro h1; omega

end

/-- Settles O23: the base by `relayHolds_of_start`, the step by `State.RelayHolds.colStep`, the byte by
`State.RelayHolds.bxy_colStepOp`. -/
theorem relayDeliversFourClassifications : Obligations.RelayDeliversFourClassifications :=
  ⟨fun _ => relayHolds_of_start hw, fun s hscan hy hwf hrelay =>
    ⟨colStepOp hw s, rfl, hrelay.bxy_colStepOp.trans (blendAt_eq_packBlend ..), wf_brow_colStepOp hw hwf,
      hrelay.colStep hwf hscan.col hy⟩⟩

end Sys2Proof.Machine
end

section
/-! PROOFS. The pixel blender (44_pixel_scaler.md): what INTERP makes of a pixel, which sub-cells a pattern blends, and
the two cases of SCALEPIX. -/

namespace Sys2Proof.Machine

/-! ### INTERP (R203) -/

theorem exec_interp (col dst : Pixel) (n m : BitVec 7) (s : State) :
    exec (.interp col dst n m) s =
      .next { s with ports := { s.ports with interp := mixPixel col dst n.toNat m.toNat } } := rfl

/-- The weights INTERP takes (30_encoding.md R99). -/
theorem wf_interp_iff (col dst : Pixel) (n m : BitVec 7) :
    (Instr.interp col dst n m).wf = true ↔ 0 < n.toNat ∧ n.toNat < m.toNat ∧ m.toNat ≤ 100 :=
  decide_eq_true_iff

theorem alphaOf_mixPixel (col dst : Pixel) (n m : Nat) : alphaOf (mixPixel col dst n m) = 0#8 :=
  alphaOf_packPixel ..

/-- Each colour channel of a mixed pixel is mixed on its own. -/
theorem channel_mixPixel (col dst : Pixel) (n m : Nat) :
    ∀ channel ∈ [redOf, greenOf, blueOf],
      channel (mixPixel col dst n m) = mixChannel (channel col) (channel dst) n m := by
  simp only [List.forall_mem_cons]
  exact ⟨redOf_packPixel .., greenOf_packPixel .., blueOf_packPixel .., by simp⟩

/-- A colour channel of a mixed pixel is the floor of the weighted average and lies between the two channels. -/
theorem toNat_channel_mixPixel (col dst : Pixel) {n m : Nat} (h : n < m) :
    ∀ channel ∈ [redOf, greenOf, blueOf],
      (channel (mixPixel col dst n m)).toNat =
          ((channel col).toNat * n + (channel dst).toNat * (m - n)) / m ∧
        min (channel col).toNat (channel dst).toNat ≤ (channel (mixPixel col dst n m)).toNat ∧
        (channel (mixPixel col dst n m)).toNat ≤ max (channel col).toNat (channel dst).toNat := by
  intro channel hchannel
  rw [channel_mixPixel col dst n m channel hchannel]
  exact toNat_mixChannel _ _ h

/-- Settles O25: alpha by `alphaOf_mixPixel`, the colour channels by `toNat_channel_mixPixel`. -/
theorem interpIsTheWeightedAverage : Obligations.InterpIsTheWeightedAverage := by
  intro s col dst n m
  refine ⟨_, exec_interp col dst n m s, fun hwf => ?_⟩
  obtain ⟨-, hproper, -⟩ := (wf_interp_iff col dst n m).mp hwf
  exact ⟨alphaOf_mixPixel .., toNat_channel_mixPixel col dst hproper⟩

/-! ### Patterns on the built table (R205, 45_blend_tables_3_to_6.md R242) -/

section

variable {P : Params} {s : State} {n r : Nat} {p : Pattern} (hP : legalParams P = true)
  (hbuilt : s.tables.rot = .built) (hn : P.minScale ≤ n ∧ n ≤ P.maxScale) (hr : r < 4)
include hP hbuilt hn hr

theorem oblk_applyPattern_of_legal :
    (applyPattern P n r p s).oblk =
      blendList (fun i j => rotN n r (i, j)) s.px (P.pattab n p) s.oblk := by
  obtain ⟨hsizes, htable⟩ := (params_legal_iff P).mp hP
  rw [applyPattern_built hsizes hbuilt hn hr (listLegal_of_pattabLegal htable hn p)]

/-- The sub-cell an entry names takes the entry's weight of PX over what it held before the pattern. -/
theorem cell_applyPattern_named {e : Entry} (he : e ∈ P.pattab n p) {i j : Nat}
    (hij : rotN n r (e.row, e.col) = (i, j)) :
    (applyPattern P n r p s).oblk.cell i j = weighted s.px (s.oblk.cell i j) e.weight := by
  obtain ⟨hsizes, htable⟩ := (params_legal_iff P).mp hP
  have hlist := listLegal_of_pattabLegal htable hn p
  rw [oblk_applyPattern_of_legal hP hbuilt hn hr]
  exact cell_blendList_named _ _ _ _ (fun _ => entry_inBlock (scale_range hsizes hn).2 r hlist)
    (nodup_rotated r hlist) he hij

theorem cell_applyPattern_unnamed {i j : Nat} (hi : i < 8) (hj : j < 8)
    (hother : ∀ e ∈ P.pattab n p, rotN n r (e.row, e.col) ≠ (i, j)) :
    (applyPattern P n r p s).oblk.cell i j = s.oblk.cell i j := by
  obtain ⟨hsizes, htable⟩ := (params_legal_iff P).mp hP
  have hlist := listLegal_of_pattabLegal htable hn p
  rw [oblk_applyPattern_of_legal hP hbuilt hn hr]
  exact cell_blendList_other _ _ _ _ (fun _ => entry_inBlock (scale_range hsizes hn).2 r hlist) hi hj hother

/-- After a pattern a sub-cell is what it was, PX whole, or a mixture of PX with what it was. -/
theorem cell_applyPattern_cases {i j : Nat} (hi : i < 8) (hj : j < 8) :
    (applyPattern P n r p s).oblk.cell i j = s.oblk.cell i j ∨
      (applyPattern P n r p s).oblk.cell i j = s.px ∨
      ∃ a b, a < b ∧ (applyPattern P n r p s).oblk.cell i j = mixPixel s.px (s.oblk.cell i j) a b := by
  obtain ⟨-, htable⟩ := (params_legal_iff P).mp hP
  by_cases hnamed : ∃ e ∈ P.pattab n p, rotN n r (e.row, e.col) = (i, j)
  · obtain ⟨e, he, hij⟩ := hnamed
    rw [cell_applyPattern_named hP hbuilt hn hr he hij]
    rcases entry_weight (listLegal_of_pattabLegal htable hn p) he with hcopy | ⟨a, b, hmix, -, hab⟩
    · rw [hcopy]
      exact .inr (.inl rfl)
    · rw [hmix]
      exact .inr (.inr ⟨a, b, hab, rfl⟩)
  · exact .inl (cell_applyPattern_unnamed hP hbuilt hn hr hi hj fun e he hij => hnamed ⟨e, he, hij⟩)

end

/-- This hardware has a pattern table for the scales 2 to 6 only (log 22). -/
theorem pattab_hw_of_unsupported : ∀ {n : Nat}, ¬(2 ≤ n ∧ n ≤ 6) → ∀ p, hw.pattab n p = []
  | 0, _, _ | 1, _, _ | _ + 7, _, _ => rfl
  | 2, h, _ | 3, h, _ | 4, h, _ | 5, h, _ | 6, h, _ => absurd (by decide) h

/-- A pattern selected alone at a scale without a table changes nothing (log 22). -/
theorem patternOp_of_unsupported {s : State} (h : legalScale s.run.n = false) (p : Pattern) :
    patternOp hw p s = s := by
  have hscale : ¬(2 ≤ s.run.n.toNat ∧ s.run.n.toNat ≤ 6) := by
    rw [← legalScale_iff, h]
    exact Bool.false_ne_true
  rw [patternOp, applyPattern, pattab_hw_of_unsupported hscale]
  rfl

/-- Settles O27: a named sub-cell by `cell_applyPattern_named`, any other by `cell_applyPattern_unnamed`, a scale
without a table by `patternOp_of_unsupported`. -/
theorem patternsBlendTheirSubcells : Obligations.PatternsBlendTheirSubcells := by
  refine ⟨?legal, fun s => ⟨rfl, rfl, rfl, rfl, rfl, patternOp_of_unsupported⟩⟩
  case legal =>
    intro P s p hP hbuilt hsupported n r t
    have hn := (supports_iff P.toSizes s.run.n).mp hsupported
    have hr : r < 4 := s.sig.rot.isLt
    refine ⟨rfl, fun e he => ?named, fun i j hi hj hother => ?unnamed⟩
    case named =>
      refine (cell_applyPattern_named hP hbuilt hn hr he rfl).trans ?_
      cases e.weight <;> rfl
    case unnamed => exact cell_applyPattern_unnamed hP hbuilt hn hr hi hj hother

/-! ### The two cases of SCALEPIX (R202, R206) -/

theorem exec_scalePix (n : Scale) (r : Rot) (s : State) :
    exec (.scalePix n r) s = .next (scalePixOp hw n.toNat r s) := rfl

theorem scalePixOp_of_unmarked {s : State} {r : Rot} (h : brOf (rotateBlend s.blend.bxy r) = 0#2) (P : Params)
    (n : Nat) : scalePixOp P n r s = { s with sig := { s.sig with rot := r } } := if_pos h

theorem scalePixOp_of_marked {s : State} {r : Rot} (h : brOf (rotateBlend s.blend.bxy r) ≠ 0#2) (P : Params)
    (n : Nat) : scalePixOp P n r s =
      applyPattern P n r.toNat (patternOfSel (selected (decideLine P r s).sig)) (decideLine P r s) := if_neg h

/-- The bottom-right fields of the four rotation steps are the fields of the byte (41_rotation_geometry.md R146). -/
theorem map_brOf_rotateBlend (b : BlendInfo) :
    ([0#2, 1#2, 2#2, 3#2] : List Rot).map (fun r => brOf (rotateBlend b r)) = [brOf b, trOf b, tlOf b, blOf b] := by
  simp only [List.map_cons, List.map_nil, rotateBlend_zero, (fields_rotateBlend_one b).1,
    (fields_rotateBlend_two b).1, (fields_rotateBlend_three b).1]

/-- As many rotation steps are marked as the byte has fields that are not None (R206). -/
theorem countP_marked_rotations (b : BlendInfo) :
    ([0#2, 1#2, 2#2, 3#2] : List Rot).countP (fun r => brOf (rotateBlend b r) != 0#2) =
      [blOf b, brOf b, trOf b, tlOf b].countP fun t => t != 0#2 :=
  calc ([0#2, 1#2, 2#2, 3#2] : List Rot).countP (fun r => brOf (rotateBlend b r) != 0#2)
      = (([0#2, 1#2, 2#2, 3#2] : List Rot).map fun r => brOf (rotateBlend b r)).countP (fun t => t != 0#2) :=
        List.countP_map.symm
    _ = [brOf b, trOf b, tlOf b, blOf b].countP (fun t => t != 0#2) := by rw [map_brOf_rotateBlend]
    _ = [blOf b, brOf b, trOf b, tlOf b].countP (fun t => t != 0#2) :=
        (List.perm_append_comm (l₁ := [brOf b, trOf b, tlOf b]) (l₂ := [blOf b])).countP_eq _

/-- Settles O29: an unmarked step by `scalePixOp_of_unmarked`, to which a byte of 0 comes down
(`rotateBlend_zero_byte`), and the count by `countP_marked_rotations`. -/
theorem scalePixWithoutAFieldDoesNothing : Obligations.ScalePixWithoutAFieldDoesNothing := by
  simp only [Obligations.ScalePixWithoutAFieldDoesNothing, ← rotateBlend_eq_rotateLeft]
  refine ⟨fun s n r hnone => ⟨_, exec_scalePix n r s, ?unmarked⟩, countP_marked_rotations⟩
  case unmarked =>
    have hunmarked : brOf (rotateBlend s.blend.bxy r) = 0#2 := by
      rcases hnone with hfield | hbyte
      · exact hfield
      · rw [hbyte, rotateBlend_zero_byte]
        rfl
    rw [scalePixOp_of_unmarked hunmarked]

/-! ### What SCALEPIX leaves alone (R213) -/

theorem scalePixOp_frame (P : Params) (n : Nat) (r : Rot) (s : State) :
    scalePixOp P n r s = { s with
      px := (scalePixOp P n r s).px
      sig := (scalePixOp P n r s).sig
      oblk := (scalePixOp P n r s).oblk } := by
  by_cases h : brOf (rotateBlend s.blend.bxy r) = 0#2
  · rw [scalePixOp_of_unmarked h]
  · rw [scalePixOp_of_marked h]
    rfl

/-- SCALEPIX does not see DST. -/
theorem scalePixOp_set_dst (P : Params) (n : Nat) (r : Rot) (s : State) (m : Memory 32) :
    scalePixOp P n r { s with dst := m } = { scalePixOp P n r s with dst := m } := by
  by_cases h : brOf (rotateBlend s.blend.bxy r) = 0#2
  · rw [scalePixOp_of_unmarked h, scalePixOp_of_unmarked (s := { s with dst := m }) h]
  · rw [scalePixOp_of_marked h, scalePixOp_of_marked (s := { s with dst := m }) h]
    rfl

/-- Settles O31: the frame by `scalePixOp_frame`, DST by `scalePixOp_set_dst`, the block by `scalePixOp_outside`. -/
theorem scalePixStaysInItsBlock : Obligations.ScalePixStaysInItsBlock :=
  fun s n r _ => ⟨_, exec_scalePix n r s, scalePixOp_frame .., congrArg _ (scalePixOp_set_dst ..),
    fun hbuilt hn _ _ hi hj hout => scalePixOp_outside legal_hw hbuilt ((legalScale_iff n).mp hn) r hi hj hout⟩

/-- Settles O32: an unmarked step keeps every sub-cell; a marked one applies a pattern (`cell_applyPattern_cases`),
whose mixtures lie between (`toNat_channel_mixPixel`). -/
theorem blendedPixelsLieBetween : Obligations.BlendedPixelsLieBetween := by
  intro s n r hbuilt hn
  refine ⟨_, exec_scalePix n r s, fun i j hi hj => ?_⟩
  by_cases h : brOf (rotateBlend s.blend.bxy r) = 0#2
  · rw [scalePixOp_of_unmarked h]
    exact .inl rfl
  · rw [scalePixOp_of_marked h]
    rcases cell_applyPattern_cases (s := decideLine hw r s)
      (p := patternOfSel (selected (decideLine hw r s).sig)) legal_hw hbuilt ((legalScale_iff n).mp hn) r.isLt hi hj
      with hkept | hcopied | ⟨a, b, hab, hmixed⟩
    · exact .inl hkept
    · exact .inr (.inl hcopied)
    · refine .inr (.inr ?_)
      rw [hmixed]
      exact ⟨alphaOf_mixPixel .., fun channel hc => (toNat_channel_mixPixel _ _ hab channel hc).2⟩

/-! ### What a marked step decides (R207 to R212) -/

/-- The line decision on this hardware (R207, R208): Dominant always blends a line; Normal does unless a neighbouring
corner is marked across a colour edge, or the far side of the corner is one colour that the centre differs from. -/
theorem lineBlend_hw_iff (T : Rgb → Ycc) (b : BlendInfo) (k : Kernel3) :
    lineBlend hw T b k = true ↔
      2 ≤ (brOf b).toNat ∨
        ¬(trOf b ≠ 0#2 ∧ 900 ≤ distance T k.e k.g) ∧ ¬(blOf b ≠ 0#2 ∧ 900 ≤ distance T k.e k.c) ∧
          ¬(distance T k.g k.h < 900 ∧ distance T k.h k.i < 900 ∧ distance T k.i k.f < 900 ∧
            distance T k.f k.c < 900 ∧ 900 ≤ distance T k.e k.i) := by
  simp only [lineBlend, colorEqual_hw, Bool.and_eq_true, bne_iff_ne, Bool.not_eq_true', decide_eq_true_eq,
    decide_eq_false_iff_not, Nat.not_lt, and_assoc]
  split_ifs with hdominant htr hbl hfar
  · exact iff_of_true rfl (.inl hdominant)
  · exact iff_of_false not_false (not_or.mpr ⟨hdominant, fun hline => hline.1 htr⟩)
  · exact iff_of_false not_false (not_or.mpr ⟨hdominant, fun hline => hline.2.1 hbl⟩)
  · exact iff_of_false not_false (not_or.mpr ⟨hdominant, fun hline => hline.2.2 hfar⟩)
  · exact iff_of_true rfl (.inr ⟨htr, hbl, hfar⟩)

theorem shallowLine_hw_iff (T : Rgb → Ycc) (k : Kernel3) :
    shallowLine hw T k = true ↔
      11 * distance T k.f k.g ≤ 5 * distance T k.h k.c ∧ k.e ≠ k.g ∧ k.d ≠ k.g := by
  simp only [shallowLine, identical, Bool.and_eq_true, decide_eq_true_eq, Bool.not_eq_true', beq_eq_false_iff_ne,
    and_assoc]
  rfl

theorem steepLine_hw_iff (T : Rgb → Ycc) (k : Kernel3) :
    steepLine hw T k = true ↔
      11 * distance T k.h k.c ≤ 5 * distance T k.f k.g ∧ k.e ≠ k.c ∧ k.b ≠ k.c := by
  simp only [steepLine, identical, Bool.and_eq_true, decide_eq_true_eq, Bool.not_eq_true', beq_eq_false_iff_ne,
    and_assoc]
  rfl

/-- The pattern the driven signals select (R212, 30_encoding.md R106). -/
theorem patternOfSel_selected (g : Signals) :
    patternOfSel (selected g) =
      if g.line then
        (if g.shallow then (if g.steep then .both else .shallow) else (if g.steep then .steep else .diag))
      else .corner := by
  obtain ⟨hline, hshallow, hsteep⟩ := getLsbD_patSel g.line g.shallow g.steep
  rw [selected, patternOfSel, hline, hshallow, hsteep]

/-- Settles O30: `scalePixOp_of_marked`; each decision over the logical kernel, whose registers are KROT's reads, and
the pattern by `patternOfSel_selected`. -/
theorem scalePixSelectsAndBlends : Obligations.ScalePixSelectsAndBlends := by
  intro s n r b k d hmarked
  have hb : rotateBlend s.blend.bxy r = b := rotateBlend_eq_rotateLeft s.blend.bxy r
  refine ⟨_, (exec_scalePix n r s).trans (congrArg _ (scalePixOp_of_marked (by rwa [hb]) hw n.toNat)),
    rfl, ?line, ?shallow, ?steep, ?pattern⟩
  case line =>
    rw [← hb]
    exact lineBlend_hw_iff (cstRead hw s) (rotateBlend s.blend.bxy r) (logicalKernel s.k3 r)
  case shallow =>
    exact (Bool.and_eq_true_iff ..).trans (and_congr_right' (shallowLine_hw_iff _ (logicalKernel s.k3 r)))
  case steep =>
    exact (Bool.and_eq_true_iff ..).trans (and_congr_right' (steepLine_hw_iff _ (logicalKernel s.k3 r)))
  case pattern =>
    rw [patternOfSel_selected]
    rfl

end Sys2Proof.Machine
end

section
/-! PROOFS. The address generator and the output multiplexer (46_driver.md R261 to R276): CLAMP, the two kernel loads,
FILL and OUTWR. -/

namespace Sys2Proof.Machine

/-! ### CLAMP (R261) -/

theorem exec_clamp (x y : Coord) (dx dy : Offset) (s : State) :
    exec (.clamp x y dx dy) s = .next { s with ports := { s.ports with
      clampX := BitVec.ofNat 32 (clampAxis x.toNat (offsetInt dx) s.run.w.toNat)
      clampY := BitVec.ofNat 32 (clampAxis y.toNat (offsetInt dy) s.run.h.toNat) } } := rfl

/-- A clamped coordinate as a signed integer. -/
theorem clampAxis_cast (p : Nat) (d : Int) {size : Nat} (h : 1 ≤ size) :
    (clampAxis p d size : Int) = min (max ((p : Int) + d) 0) ((size : Int) - 1) := by
  unfold clampAxis
  omega

/-- The output of CLAMP for one axis: a clamped coordinate fits in the word. -/
theorem toNat_clampOutput (p : Nat) (d : Int) {size : HostWord} (h : 1 ≤ size.toNat) :
    ((BitVec.ofNat 32 (clampAxis p d size.toNat)).toNat : Int) =
        min (max ((p : Int) + d) 0) ((size.toNat : Int) - 1) ∧
      (BitVec.ofNat 32 (clampAxis p d size.toNat)).toNat < size.toNat := by
  have hlt := clampAxis_lt p d h
  rw [BitVec.toNat_ofNat, Nat.mod_eq_of_lt (hlt.trans size.isLt)]
  exact ⟨clampAxis_cast p d h, hlt⟩

/-- Settles O33: each output by `toNat_clampOutput`. -/
theorem clampReplicatesTheEdges : Obligations.ClampReplicatesTheEdges :=
  fun s x y dx dy => ⟨_, _, exec_clamp x y dx dy s, toNat_clampOutput x.toNat (offsetInt dx),
    toNat_clampOutput y.toNat (offsetInt dy)⟩

/-! ### The kernel loads (R264, R270) -/

theorem exec_k3Load (s : State) : exec .k3Load s = .next (k3LoadOp s) := rfl

/-- Settles O34: K4LOAD reads SRC at the indexes of `sample`, in the image by `srcIndex_lt`. -/
theorem k4LoadReadsTwelvePixels : Obligations.K4LoadReadsTwelvePixels :=
  fun s => ⟨exec_k4Load s, fun hwidth hheight dx dy => srcIndex_lt (clampAxis_lt s.pos.x.toNat dx hwidth)
    (clampAxis_lt s.pos.y.toNat dy hheight)⟩

/-- Settles O35: the shared pixels are the same samples in `kernel3At` and `kernel4At`. -/
theorem k3LoadReadsNinePixels : Obligations.K3LoadReadsNinePixels :=
  fun s => ⟨_, _, exec_k3Load s, exec_k4Load s, rfl, rfl, rfl, rfl, rfl, rfl, rfl, rfl, rfl⟩

/-! ### FILL and OUTWR (R266, R276) -/

theorem exec_fill (s : State) : exec .fill s = .next (fillOp s) := rfl

theorem exec_outWr (s : State) : exec .outWr s = .next (outWrOp s) := rfl

/-- Settles O36, by `cell_fillBlock`. -/
theorem fillCopiesTheSourcePixel : Obligations.FillCopiesTheSourcePixel :=
  fun s => ⟨_, exec_fill s, fun hn _ _ hi hj => cell_fillBlock hn s.k4.f s.oblk hi hj⟩

/-- Settles O37: the stores by the laws of `storeBlock`, the tiling by `outIndex_surj` and `outIndex_inj`. -/
theorem outWrStoresTheBlock : Obligations.OutWrStoresTheBlock := by
  intro s hwf
  refine ⟨_, exec_outWr s, wf_storeBlock hwf .., fun hx i j hi hj => read_storeBlock hwf s.oblk hx hi hj,
    fun hx hy i j hi hj => outIndex_lt hx hy hi hj, fun c hc => read_storeBlock_other hwf s.oblk hc, ?tiling⟩
  case tiling =>
    intro c hc
    obtain ⟨x, y, i, j, hx, hy, hi, hj, hindex⟩ := outIndex_surj hc
    exact ⟨x, y, i, j, hx, hy, hi, hj, hindex, fun x' y' i' j' hx' _ hi' hj' hindex' =>
      outIndex_inj hx' hi' hj' hx hi hj (Eq.trans hindex' hindex.symm)⟩

end Sys2Proof.Machine
end

section
/-! PROOFS. COLSTEP (46_driver.md R280 to R283): its sub-steps, what it leaves alone, and what the last one leaves in
the relay. -/

namespace Sys2Proof.Machine

theorem exec_colStep (s : State) : exec .colStep s = .next (colStepOp hw s) := rfl

/-! ### The sub-steps (R280) -/

/-- The advance changes the position only (R283). -/
theorem advanceOp_eq (s : State) :
    advanceOp s = { s with pos :=
      if s.pos.x.toNat + 1 < s.run.w.toNat then { y := s.pos.y, x := s.pos.x + 1 }
      else { y := s.pos.y + 1, x := 0 } } := by
  unfold advanceOp
  split <;> rfl

theorem gatedBlendOp_of_zero {P : Params} (hgate : P.gateBrOnly = false) {s : State} (h : s.blend.bxy = 0#8) :
    gatedBlendOp P s = s :=
  if_neg (by rw [blendGate_iff hgate]; exact not_not_intro h)

theorem gatedBlendOp_of_ne_zero {P : Params} (hgate : P.gateBrOnly = false) {s : State} (h : s.blend.bxy ≠ 0#8) :
    gatedBlendOp P s = scaleFourOp P (k3LoadOp s) :=
  if_pos ((blendGate_iff hgate _).mpr h)

/-- The state of a COLSTEP before the blend gate (R280 steps 1 to 5). -/
def beforeGate (P : Params) (s : State) : State := fillOp (classifyRelayOp P (k4LoadOp (rowStartOp s)))

theorem beforeOutWr_eq (P : Params) (s : State) : beforeOutWr P s = gatedBlendOp P (beforeGate P s) := rfl

theorem colStepOp_eq_advanceOp (P : Params) (s : State) : colStepOp P s = advanceOp (outWrOp (beforeOutWr P s)) := rfl

section
variable (P : Params) (s : State)

@[simp] theorem beforeGate_run : (beforeGate P s).run = s.run := by simp [beforeGate]

@[simp] theorem beforeGate_pos : (beforeGate P s).pos = s.pos := by simp [beforeGate]

@[simp] theorem beforeGate_tables : (beforeGate P s).tables = s.tables := by simp [beforeGate]

@[simp] theorem beforeGate_src : (beforeGate P s).src = s.src := by simp [beforeGate]

end

/-- COLSTEP moves on the state OUTWR leaves (R283). -/
theorem colStepOp_eq (P : Params) (s : State) :
    colStepOp P s = { outWrOp (beforeOutWr P s) with pos :=
      if s.pos.x.toNat + 1 < s.run.w.toNat then { y := s.pos.y, x := s.pos.x + 1 }
      else { y := s.pos.y + 1, x := 0 } } := by
  rw [colStepOp_eq_advanceOp, advanceOp_eq]
  simp [beforeOutWr_eq]

/-- Settles O38: the sub-steps are the operations `colStepOp` composes; behind the gate, with the scale that none of
them changes. -/
theorem colStepIsItsEightSubsteps : Obligations.ColStepIsItsEightSubsteps := by
  intro s
  refine ⟨_, _, _, beforeGate hw s, beforeOutWr hw s, _, exec_k4Load (rowStartOp s), exec_classify _,
    exec_relay .., exec_fill _, gatedBlendOp_of_zero rfl, fun hbxy => ?blend, exec_outWr _,
    congrArg _ (colStepOp_eq hw s)⟩
  case blend =>
    have hblend : beforeOutWr hw s = scaleFourOp hw (k3LoadOp (beforeGate hw s)) := gatedBlendOp_of_ne_zero rfl hbxy
    rw [scaleFourOp, k3LoadOp_run, beforeGate_run] at hblend
    exact ⟨_, _, _, _, exec_k3Load _, exec_scalePix .., exec_scalePix .., exec_scalePix ..,
      (exec_scalePix ..).trans (congrArg _ hblend.symm)⟩

/-! ### The frame and the advance (R276, R283) -/

/-- COLSTEP leaves the tables, the host registers, STATUS, the sampled operands, the unit outputs, SRC and what
surrounds the block. -/
theorem colStepOp_frame (P : Params) (s : State) :
    colStepOp P s = { s with
      k4 := (colStepOp P s).k4
      k3 := (colStepOp P s).k3
      px := (colStepOp P s).px
      pos := (colStepOp P s).pos
      blend := (colStepOp P s).blend
      oblk := (colStepOp P s).oblk
      sig := (colStepOp P s).sig
      dst := (colStepOp P s).dst } := by
  rw [← colStepOp_tables P s, ← colStepOp_regs P s, ← colStepOp_status P s, ← colStepOp_run P s,
    ← colStepOp_ports P s, ← colStepOp_src P s, ← colStepOp_env P s]

section
variable {P : Params} {s : State}

/-- The number of the position in row-major order goes up by one (R283). -/
theorem rowMajor_colStepOp (P : Params) (hx : s.pos.x.toNat < s.run.w.toNat) (hy : s.pos.y.toNat < s.run.h.toNat) :
    (colStepOp P s).pos.y.toNat * s.run.w.toNat + (colStepOp P s).pos.x.toNat =
      s.pos.y.toNat * s.run.w.toNat + s.pos.x.toNat + 1 := by
  obtain ⟨-, hx', hy'⟩ | ⟨hlast, hx', hy'⟩ := colStepOp_position P hx hy
  · rw [hx', hy', Nat.add_assoc]
  · rw [hx', hy', Nat.succ_mul]
    omega

/-- The scan stays in range up to its end (10_state.md R24). -/
theorem State.ScanInRange.colStep (h : s.ScanInRange P) (hy : s.pos.y.toNat < s.run.h.toNat) :
    (colStepOp P s).ScanInRange P := by
  have hposition := colStepOp_position P h.col hy
  have hwidth := h.width
  constructor <;> simp only [colStepOp_tables, colStepOp_run]
  case cst => exact h.cst
  case rot => exact h.rot
  case scale => exact h.scale
  case width => exact h.width
  case height => exact h.height
  case size => exact h.size
  case row => omega
  case col => omega
  case last => omega

theorem wf_dst_colStepOp (P : Params) (hwf : s.dst.wf = true) : (colStepOp P s).dst.wf = true := by
  rw [colStepOp_dst]
  exact wf_storeBlock hwf ..

/-- COLSTEP stores nothing outside the block of its pixel (R276). -/
theorem read_dst_colStepOp_other (P : Params) (hwf : s.dst.wf = true) {c : Nat}
    (hc : ∀ i j, i < s.run.n.toNat → j < s.run.n.toNat →
      outIndex s.run.n.toNat s.run.w.toNat s.pos.x.toNat s.pos.y.toNat i j ≠ c) :
    (colStepOp P s).dst.read c = s.dst.read c := by
  rw [colStepOp_dst]
  exact read_storeBlock_other hwf _ hc

end

/-- Settles O39: `colStepOp_frame`, the advance by `rowMajor_colStepOp`, DST by `read_dst_colStepOp_other`. -/
theorem colStepAdvancesAndKeepsTheRest : Obligations.ColStepAdvancesAndKeepsTheRest :=
  fun s hscan hy hwf => ⟨_, exec_colStep s, colStepOp_frame hw s, hscan.colStep hy,
    rowMajor_colStepOp hw hscan.col hy, wf_dst_colStepOp hw hwf, fun _ hc => read_dst_colStepOp_other hw hwf hc⟩

/-! ### The end of the relay (R292 (f)) -/

/-- The row below the last row would receive nothing. -/
theorem topFields_below_last_row (P : Params) (s : State) (x : Nat) {y : Nat} (h : y + 1 = s.run.h.toNat) :
    topFields P s x (y + 1) = 0#8 := by
  rw [topFields_row_succ, cornersAt_edge P s x y (.inr h), cornersAt_edge P s (x - 1) y (.inr h)]
  exact congrArg (packBlend 0#2 0#2 0#2) (ite_self 0#2)

/-- Settles O24: no corner of the last row is marked (`cornersAt_edge`), so k of the last pixel and the top fields of
the row below are 0. -/
theorem lastPixelLeavesTheRelayEmpty : Obligations.LastPixelLeavesTheRelayEmpty := by
  intro s hscan hx hy hwf hrelay
  refine ⟨_, exec_colStep s, ?carry, fun c hc => ?brow⟩
  case carry =>
    rw [carry_colStepOp, cornersAt_edge hw s _ _ (.inr hy)]
    rfl
  case brow =>
    rw [hrelay.read_brow_colStepOp hwf hc, if_pos (by omega)]
    exact topFields_below_last_row hw s c hy

end Sys2Proof.Machine
end

section
/-! PROOFS. The image in the middle of a scan (46_driver.md R291): the block COLSTEP stores is the closed form, DST
keeps the blocks stored before, and where the closed form is plain replication (R292 (b), (e)). -/

namespace Sys2Proof.Machine

/-! ### The block of one pixel -/

theorem cstRead_congr (P : Params) {s t : State} (h : t.tables = s.tables) : cstRead P t = cstRead P s := by
  unfold cstRead
  rw [h]

theorem sample_congr {s t : State} (hrun : t.run = s.run) (hsrc : t.src = s.src) : sample t = sample s := by
  unfold sample
  rw [hrun, hsrc]

theorem kernel3At_congr {s t : State} (hrun : t.run = s.run) (hsrc : t.src = s.src) : kernel3At t = kernel3At s := by
  unfold kernel3At
  rw [sample_congr hrun hsrc]

theorem cstRead_scalePixOp (P : Params) (n : Nat) (r : Rot) (s : State) :
    cstRead P (scalePixOp P n r s) = cstRead P s :=
  cstRead_congr P (scalePixOp_tables ..)

/-- COLSTEP before the gate leaves BXY to the blend (R280 step 4). -/
theorem beforeGate_blend (P : Params) (s : State) : (beforeGate P s).blend = (colStepOp P s).blend := by
  simp [colStepOp_eq_advanceOp, beforeOutWr_eq]

/-- FILL copies the pixel K4LOAD has read at the position (R266). -/
theorem beforeGate_oblk (P : Params) (s : State) :
    (beforeGate P s).oblk =
      fillBlock s.run.n.toNat (sample s s.pos.x.toNat s.pos.y.toNat .zero .zero) s.oblk := by
  have hk4 : (k4LoadOp (rowStartOp s)).k4.f = sample s s.pos.x.toNat s.pos.y.toNat .zero .zero := by
    simp only [k4LoadOp, kernel4At, rowStartOp_pos, sample_congr (rowStartOp_run s) (rowStartOp_src s)]
  unfold beforeGate fillOp
  simp only [classifyRelayOp_run, k4LoadOp_run, rowStartOp_run, classifyRelayOp_k4, hk4, classifyRelayOp_oblk,
    k4LoadOp_oblk, rowStartOp_oblk]

section
variable {P : Params} {s : State} (hP : legalParams P = true) (hbuilt : s.tables.rot = .built)
  (hn : P.minScale ≤ s.run.n.toNat ∧ s.run.n.toNat ≤ P.maxScale)
include hP hbuilt hn

/-- The four SCALEPIX of a column are the rotation steps of the closed form, in their order (R282). -/
theorem scaleFourOp_oblk :
    (scaleFourOp P s).oblk =
      [0#2, 1#2, 2#2, 3#2].foldl (blendRotation P (cstRead P s) s.run.n.toNat s.blend.bxy s.k3) s.oblk := by
  unfold scaleFourOp
  rw [scalePixOp_oblk hP (by simpa using hbuilt) hn, scalePixOp_oblk hP (by simpa using hbuilt) hn,
    scalePixOp_oblk hP (by simpa using hbuilt) hn, scalePixOp_oblk hP hbuilt hn]
  simp only [cstRead_scalePixOp, scalePixOp_blend, scalePixOp_k3, List.foldl_cons, List.foldl_nil]

/-- The blend of a column in closed form: with a byte of 0, which the gate stops, no step would blend (R206, R272). -/
theorem gatedBlendOp_oblk (hgate : P.gateBrOnly = false) :
    (gatedBlendOp P s).oblk =
      [0#2, 1#2, 2#2, 3#2].foldl
        (blendRotation P (cstRead P s) s.run.n.toNat s.blend.bxy (kernel3At s s.pos.x.toNat s.pos.y.toNat))
        s.oblk := by
  by_cases hbxy : s.blend.bxy = 0#8
  · rw [gatedBlendOp_of_zero hgate hbxy, hbxy]
    simp only [List.foldl_cons, List.foldl_nil, blendRotation_zero]
  · rw [gatedBlendOp_of_ne_zero hgate hbxy]
    exact scaleFourOp_oblk (s := k3LoadOp s) hP hbuilt hn

end

theorem agree_foldl_blendRotation {P : Params} (hP : legalParams P = true) {n : Nat}
    (hn : P.minScale ≤ n ∧ n ≤ P.maxScale) (T : Rgb → Ycc) (bxy : BlendInfo) (k3 : Kernel3) (l : List Rot)
    {b b' : Block} (h : b.Agree n b') :
    (l.foldl (blendRotation P T n bxy k3) b).Agree n (l.foldl (blendRotation P T n bxy k3) b') := by
  induction l generalizing b b' with
  | nil => exact h
  | cons r l ih => exact ih (agree_blendRotation hP hn T bxy k3 r h)

/-- What a step of the scan starts from, apart from DST: the range, the tables behind the guards, and the relay. -/
structure State.StepReady (P : Params) (s : State) : Prop where
  legal : legalParams P = true
  gate : P.gateBrOnly = false
  range : s.ScanInRange P
  tables : s.TablesSound
  relay : s.RelayHolds P

theorem State.ScanInRange.scale_bounds {P : Params} {s : State} (h : s.ScanInRange P) :
    P.minScale ≤ s.run.n.toNat ∧ s.run.n.toNat ≤ P.maxScale :=
  (supports_iff P.toSizes s.run.n).mp h.scale

section
variable {P : Params} {s : State}

/-- The block OUTWR stores is the output block of the pixel (R291). -/
theorem State.StepReady.beforeOutWr_agree (h : s.StepReady P) :
    (beforeOutWr P s).oblk.Agree s.run.n.toNat (outputBlock P s s.pos.x.toNat s.pos.y.toNat) := by
  have hn := h.range.scale_bounds
  have hn8 := (scale_range ((params_legal_iff P).mp h.legal).1 hn).2
  have hbuilt : (beforeGate P s).tables.rot = .built := by
    rw [beforeGate_tables]
    exact h.tables.rot h.range.rot
  rw [beforeOutWr_eq, gatedBlendOp_oblk h.legal hbuilt (by rwa [beforeGate_run]) h.gate, beforeGate_run,
    beforeGate_pos, cstRead_congr P (beforeGate_tables P s), beforeGate_blend, h.relay.bxy_colStepOp,
    kernel3At_congr (beforeGate_run P s) (beforeGate_src P s), beforeGate_oblk]
  exact agree_foldl_blendRotation h.legal hn _ _ _ _ (agree_fillBlock hn8 _ _ _)

/-- COLSTEP stores the output block of its pixel (R276, R291). -/
theorem State.StepReady.read_dst_colStepOp (h : s.StepReady P) (hwf : s.dst.wf = true) {i j : Nat}
    (hi : i < s.run.n.toNat) (hj : j < s.run.n.toNat) :
    (colStepOp P s).dst.read (outIndex s.run.n.toNat s.run.w.toNat s.pos.x.toNat s.pos.y.toNat i j) =
      (outputBlock P s s.pos.x.toNat s.pos.y.toNat).cell i j := by
  rw [colStepOp_dst, read_storeBlock hwf _ h.range.col hi hj]
  exact h.beforeOutWr_agree i j hi hj

/-! ### The image so far -/

/-- Nothing is scanned at (0, 0). -/
theorem outputHolds_of_start (P : Params) (hpos : s.pos = ⟨0, 0⟩) : s.OutputHolds P := by
  intro x y _ _ hscanned
  rw [hpos] at hscanned
  exact absurd hscanned (by simp [scannedBefore])

/-- COLSTEP adds its own pixel to the scanned ones (R283). -/
theorem scannedBefore_colStepOp (P : Params) (hx : s.pos.x.toNat < s.run.w.toNat)
    (hy : s.pos.y.toNat < s.run.h.toNat) {x y : Nat} (hxw : x < s.run.w.toNat)
    (h : scannedBefore (colStepOp P s).pos x y) :
    scannedBefore s.pos x y ∨ (x = s.pos.x.toNat ∧ y = s.pos.y.toNat) := by
  have hposition := colStepOp_position P hx hy
  unfold scannedBefore at *
  omega

theorem not_scannedBefore_self (p : Position) : ¬scannedBefore p p.x.toNat p.y.toNat := by
  simp [scannedBefore]

/-- The output blocks of a command do not change while it runs (20_memory.md R70, R73). -/
theorem outputBlock_colStepOp (P : Params) {x y : Nat} (hx : x < s.run.w.toNat) (hy : y < s.run.h.toNat) :
    outputBlock P (colStepOp P s) x y = outputBlock P s x y :=
  outputBlock_congr P (colStepOp_run P s) (cstRead_congr P (colStepOp_tables P s))
    (fun _ _ => by rw [colStepOp_src]) hx hy

/-- COLSTEP keeps the blocks stored before and adds the pixel's own. -/
theorem State.StepReady.outputHolds_colStep (h : s.StepReady P) (hy : s.pos.y.toNat < s.run.h.toNat)
    (hwf : s.dst.wf = true) (hout : s.OutputHolds P) : (colStepOp P s).OutputHolds P := by
  intro x y hxw hyh hscanned i j hi hj
  rw [colStepOp_run] at hxw hyh hi hj ⊢
  rw [outputBlock_colStepOp P hxw hyh]
  obtain hbefore | ⟨rfl, rfl⟩ := scannedBefore_colStepOp P h.range.col hy hxw hscanned
  case inl =>
    have hother : ∀ i' j', i' < s.run.n.toNat → j' < s.run.n.toNat →
        outIndex s.run.n.toNat s.run.w.toNat s.pos.x.toNat s.pos.y.toNat i' j' ≠
          outIndex s.run.n.toNat s.run.w.toNat x y i j := by
      intro i' j' hi' hj' heq
      obtain ⟨rfl, rfl, -, -⟩ := outIndex_inj h.range.col hi' hj' hxw hi hj heq
      exact not_scannedBefore_self s.pos hbefore
    rw [read_dst_colStepOp_other P hwf hother]
    exact hout x y hxw hyh hbefore i j hi hj
  case inr => exact h.read_dst_colStepOp hwf hi hj

theorem State.Canonical.colStep (h : s.Canonical) (P : Params) : (colStepOp P s).Canonical where
  src := by rw [colStepOp_src]; exact h.src
  dst := wf_dst_colStepOp P h.dst
  brow := wf_brow_colStepOp P h.brow

end

/-- Settles O59: each part of the scan is kept by its own lemma; this hardware is the case of `hw`. -/
theorem colStepKeepsTheImageSoFar : Obligations.ColStepKeepsTheImageSoFar := by
  unfold Obligations.ColStepKeepsTheImageSoFar
  intro claim
  have hany : ∀ P : Params, legalParams P = true → P.gateBrOnly = false → claim P (execWith P) := by
    intro P hP hgate s hscan htables hcanonical hrelay hout hy
    have hready : s.StepReady P := ⟨hP, hgate, hscan, htables, hrelay⟩
    exact ⟨colStepOp P s, rfl, colStepOp_run P s, hscan.colStep hy, hcanonical.colStep P,
      hrelay.colStep hcanonical.brow hscan.col hy, hready.outputHolds_colStep hy hcanonical.dst hout,
      fun _ _ hi hj => hready.read_dst_colStepOp hcanonical.dst hi hj,
      fun _ hc => read_dst_colStepOp_other P hcanonical.dst hc⟩
  exact ⟨fun P _ hpos => outputHolds_of_start P hpos, execWith_hw_eq_exec ▸ hany hw legal_hw rfl, hany⟩

/-! ### Plain replication (R292 (b), (e)) -/

section
variable {s : State} {x y : Nat} (hx : x < s.run.w.toNat) (hy : y < s.run.h.toNat)
include hx hy

/-- The sample of a pixel itself is its SRC element (20_memory.md R61). -/
theorem sample_zero_zero : sample s x y .zero .zero = s.src.read (y * s.run.w.toNat + x) := by
  have hclamp : ∀ {p size : Nat}, p < size → clampAxis p (offsetInt .zero) size = p := by
    intro p size hp
    have hinside := clampAxis_inside (p := p) (d := offsetInt .zero) (size := size) (by simp [offsetInt])
      (by simpa [offsetInt] using hp)
    simpa [offsetInt] using hinside
  unfold sample srcIndex
  rw [hclamp hx, hclamp hy]

/-- In an image of one colour, one row or one column no corner is marked: each kernel is flat (R161). -/
theorem cornersAt_of_plain (P : Params)
    (hplain : (∃ p, ∀ c, c < s.run.w.toNat * s.run.h.toNat → s.src.read c = p) ∨ s.run.h.toNat = 1 ∨
      s.run.w.toNat = 1) : cornersAt P s x y = ⟨0, 0, 0, 0⟩ := by
  rcases hplain with ⟨p, hp⟩ | hrow | hcolumn
  · have hsample : ∀ dx dy, sample s x y dx dy = p := fun dx dy =>
      hp _ (srcIndex_lt (clampAxis_lt _ _ (by omega)) (clampAxis_lt _ _ (by omega)))
    refine corners_flat P _ ((flatKernel_iff _).mpr (.inl ?_))
    simp only [kernel4At, hsample, and_self]
  · exact cornersAt_edge P s x y (.inr (by omega))
  · exact cornersAt_edge P s x y (.inl (by omega))

end

/-- The byte of a pixel is 0 where no corner of the image is marked (R188). -/
theorem blendAt_of_unmarked {P : Params} {s : State} {x y : Nat}
    (hnone : ∀ x' y', x' ≤ x → y' ≤ y → cornersAt P s x' y' = ⟨0, 0, 0, 0⟩) : blendAt P s x y = 0#8 := by
  rw [blendAt_eq_packBlend, leftField, hnone (x - 1) y (by omega) le_rfl, hnone x y le_rfl le_rfl,
    hnone x (y - 1) le_rfl (by omega), hnone (x - 1) (y - 1) (by omega) (by omega)]
  simp [packBlend]

/-- With a byte of 0 the output block is the flat block. -/
theorem outputBlock_of_blendAt_zero {P : Params} {s : State} {x y : Nat} (h : blendAt P s x y = 0#8) :
    outputBlock P s x y = fillBlock s.run.n.toNat (sample s x y .zero .zero) State.reset.oblk := by
  simp only [outputBlock, h, List.foldl_cons, List.foldl_nil, blendRotation_zero]

/-- Settles O58: no corner is marked (`cornersAt_of_plain`), so the block is the flat one. -/
theorem flatImagesAreReplicated : Obligations.FlatImagesAreReplicated := by
  intro P s x y i j hsizes hsupported hx hy hi hj hplain
  have hn8 := (scale_range hsizes ((supports_iff P.toSizes s.run.n).mp hsupported)).2
  have hzero : blendAt P s x y = 0#8 := blendAt_of_unmarked fun x' y' hx' hy' =>
    cornersAt_of_plain (hx'.trans_lt hx) (hy'.trans_lt hy) P hplain
  rw [outputBlock_of_blendAt_zero hzero, cell_fillBlock hn8 _ _ (hi.trans_le hn8) (hj.trans_le hn8), if_pos ⟨hi, hj⟩,
    sample_zero_zero hx hy]

end Sys2Proof.Machine
end

section
/-! PROOFS. The acceptance of the commands and the engine's turn (46_driver.md R283 to R290): INIT_TABLES, the start of
SCALE_IMAGE, and what a turn of the engine is. -/

namespace Sys2Proof.Machine

/-! ### Acceptance (R288, R290) -/

/-- The acceptance clears DONE, and ERR too on a block that is not dead (60_exceptions.md R306). -/
theorem acceptCommand_of_alive {s : State} (h : s.status.err ≠ 4#3) :
    acceptCommand s = { s with status := { busy := true, done := false, err := 0#3 } } := by
  rw [acceptCommand, if_neg (mt (fatal_iff s).mp h)]

theorem acceptCommand_of_dead {s : State} (h : s.status.err = 4#3) :
    acceptCommand s = { s with status := { busy := true, done := false, err := 4#3 } } := by
  rw [acceptCommand, if_pos ((fatal_iff s).mpr h)]

/-! ### INIT_TABLES (R288) -/

theorem exec_initTables (s : State) : exec .initTables s = .next (initTablesOp s) := rfl

section
variable {s : State} (hidle : s.status.busy = false)
include hidle

theorem initTablesOp_of_dead (h : s.status.err = 4#3) : initTablesOp s = endCommand (acceptCommand s) := by
  rw [initTablesOp, if_neg (by simp [hidle]), if_pos (by rw [fatal_acceptCommand, fatal_iff, h])]

theorem initTablesOp_of_alive (h : s.status.err ≠ 4#3) :
    initTablesOp s = endCommand (cstBuildOp (rotBuildOp (acceptCommand s))) := by
  rw [initTablesOp, if_neg (by simp [hidle]), if_neg (by rwa [fatal_acceptCommand, fatal_iff])]

end

/-- Settles O40: `initTablesOp` case by case; the builds by `build_succeeds` and `build_fails`. -/
theorem initTablesBuildsBothTables : Obligations.InitTablesBuildsBothTables := by
  intro s
  refine ⟨fun hbusy => congrArg _ (initTablesOp_of_busy hbusy), fun hidle hdead => ?dead,
    fun hidle halive hbuild => ?built, fun hidle halive hvalid htblOk => ?failed⟩
  case dead =>
    rw [exec_initTables, initTablesOp_of_dead hidle hdead, acceptCommand_of_dead hdead]
    rfl
  case built =>
    rw [exec_initTables, initTablesOp_of_alive hidle halive, build_succeeds (acceptCommand s) hbuild,
      acceptCommand_of_alive halive]
    rfl
  case failed =>
    rw [exec_initTables, initTablesOp_of_alive hidle halive, build_fails (acceptCommand s) hvalid htblOk,
      acceptCommand_of_alive halive]
    rfl

/-! ### SCALE_IMAGE up to its scan (R285, R290) -/

section
variable {P : Params} {s : State} (hidle : s.status.busy = false) (halive : s.status.err ≠ 4#3)
  (hpre : precondition P s.regs = none)
include hidle halive hpre

theorem scaleImageOp_of_accepted : scaleImageOp P s = buildAndStart (acceptCommand s) := by
  rw [scaleImageOp, if_neg (by simp [hidle]), if_neg (by rwa [fatal_acceptCommand, fatal_iff]), hpre]

/-- The scan started: the tables are valid, the operands sampled, the position, BXY, CARRY and BROW below the
width 0. -/
theorem scaleImageOp_starts (hbuild : s.tables.csValid = true ∨ s.env.tblOk = true) :
    scaleImageOp P s = { s with
      status := { busy := true, done := false, err := 0#3 }
      tables :=
        { cst := if s.tables.csValid then s.tables.cst else .built
          rot := if s.tables.rotValid then s.tables.rot else .built
          csValid := true
          rotValid := true }
      pos := { y := 0, x := 0 }
      blend := { bxy := 0#8, brow := s.blend.brow.clearBelow s.regs.width.toNat, carry := 0#8 }
      run := { n := s.regs.scale, w := s.regs.width, h := s.regs.height }
      env := { s.env with tainted := false } } := by
  rw [scaleImageOp_of_accepted hidle halive hpre, buildAndStart, build_succeeds (acceptCommand s) hbuild,
    acceptCommand_of_alive halive]
  rfl

/-- No scan where CSTAB cannot be built (60_exceptions.md R308). -/
theorem scaleImageOp_build_fails (hvalid : s.tables.csValid = false) (htblOk : s.env.tblOk = false) :
    scaleImageOp P s = { s with
      status := { busy := false, done := false, err := 4#3 }
      tables := { s.tables with
        rot := if s.tables.rotValid then s.tables.rot else .built
        rotValid := true } } := by
  rw [scaleImageOp_of_accepted hidle halive hpre, buildAndStart, build_fails (acceptCommand s) hvalid htblOk,
    acceptCommand_of_alive halive]
  exact if_neg (by simp [hvalid])

end

/-- Settles O42: `scaleImageOp_starts` and `scaleImageOp_build_fails`, BROW by `Memory.read_clearBelow`; this hardware
is the case of `hw`. -/
theorem scaleImageStartsTheScan : Obligations.ScaleImageStartsTheScan := by
  unfold Obligations.ScaleImageStartsTheScan
  intro claim
  have hany : ∀ P : Params, claim P (execWith P) := by
    intro P s hidle halive hwf hw1 hwmax hh1 hnmin hnmax hcap
    have hpre : precondition P s.regs = none :=
      (precondition_none_iff P s.regs).mpr ⟨hw1, hwmax, hh1, hnmin, hnmax, hcap⟩
    exact ⟨fun hbuild => ⟨_, congrArg _ (scaleImageOp_starts hidle halive hpre hbuild), Memory.wf_clearBelow hwf _,
        Memory.read_clearBelow _ _⟩,
      fun hvalid htblOk => congrArg _ (scaleImageOp_build_fails hidle halive hpre hvalid htblOk)⟩
  exact ⟨execWith_hw_eq_exec ▸ hany hw, hany⟩

/-! ### The engine's turn (R290, 70_reset_and_hazards.md R330) -/

/-- A step that is the engine's: COLSTEP, the end of the command, or nothing. -/
theorem engineTurn_cases {s t : State} (h : step s = .next (engineStep hw t)) :
    (t.status.busy = true → t.pos.y.toNat < t.run.h.toNat → step s = exec .colStep t) ∧
      (t.status.busy = true → t.run.h.toNat ≤ t.pos.y.toNat → t.env.tainted = false →
        step s = .next { t with status := { t.status with busy := false, done := true } }) ∧
      (t.status.busy = false → step s = .next t) := by
  refine ⟨fun hbusy hrow => ?scanning, fun hbusy hrow huntainted => ?scanned, fun hidle => ?idle⟩
  case scanning => rw [h, engineStep_of_scanning hw hbusy hrow, exec_colStep]
  case scanned => rw [h, engineStep_of_scanned hw hbusy hrow, finishOp_of_untainted huntainted]
  case idle => rw [h, engineStep, if_neg (by simp [hidle])]

/-- Settles O6: with no turn waiting or the turn given away the step is the engine's (`turnOp_nil`, `turnOp_engine`),
and taking the slot changes the inbox only. -/
theorem engineTurnRunsTheScan : Obligations.EngineTurnRunsTheScan := by
  rintro s t (⟨hnil, rfl⟩ | ⟨rest, hengine, rfl⟩)
  · exact engineTurn_cases (turnOp_nil hnil)
  · exact engineTurn_cases (t := takeSlot rest s) (turnOp_engine hengine)

end Sys2Proof.Machine
end

section
/-! PROOFS. SCALE_IMAGE as a function (46_driver.md R291, R292 (c)): the scan run to its end, with the invariant of its
middle, and two commands over one source image. -/

namespace Sys2Proof.Machine

/-! ### A scan left alone -/

/-- A running scan that no host turn waits for and no host store has touched. -/
structure State.MidScan (P : Params) (s : State) : Prop where
  ready : s.StepReady P
  canonical : s.Canonical
  output : s.OutputHolds P
  busy : s.status.busy = true
  inbox : s.env.inbox = []
  untainted : s.env.tainted = false

/-- What the end u of a scan has of its state s: DONE, the output image, and what the scan left alone (R291,
20_memory.md R64). -/
structure ScanResult (P : Params) (s u : State) : Prop where
  status : u.status = { s.status with busy := false, done := true }
  regs : u.regs = s.regs
  src : u.src = s.src
  image : ∀ x y i j, x < s.run.w.toNat → y < s.run.h.toNat → i < s.run.n.toNat → j < s.run.n.toNat →
    u.dst.read (outIndex s.run.n.toNat s.run.w.toNat x y i j) = (outputBlock P s x y).cell i j
  outside : ∀ c, imageSize s.run ≤ c → u.dst.read c = s.dst.read c

section
variable {P : Params} {s : State}

theorem State.MidScan.colStep (h : s.MidScan P) (hy : s.pos.y.toNat < s.run.h.toNat) : (colStepOp P s).MidScan P where
  ready :=
    { legal := h.ready.legal
      gate := h.ready.gate
      range := h.ready.range.colStep hy
      tables := by
        constructor <;> rw [colStepOp_tables]
        · exact h.ready.tables.cst
        · exact h.ready.tables.rot
      relay := h.ready.relay.colStep h.canonical.brow h.ready.range.col hy }
  canonical := h.canonical.colStep P
  output := h.ready.outputHolds_colStep hy h.canonical.dst h.output
  busy := by rw [colStepOp_status]; exact h.busy
  inbox := by rw [colStepOp_env]; exact h.inbox
  untainted := by rw [colStepOp_env]; exact h.untainted

/-- COLSTEP stores nothing outside the output image. -/
theorem State.MidScan.read_dst_outside (h : s.MidScan P) (hy : s.pos.y.toNat < s.run.h.toNat) {c : Nat}
    (hc : imageSize s.run ≤ c) : (colStepOp P s).dst.read c = s.dst.read c :=
  read_dst_colStepOp_other P h.canonical.dst fun _ _ hi hj hindex =>
    absurd (hindex ▸ outIndex_lt h.ready.range.col hy hi hj) hc.not_gt

/-- The result of the rest of a scan is the result of the scan. -/
theorem State.MidScan.result_of_colStep (h : s.MidScan P) (hy : s.pos.y.toNat < s.run.h.toNat) {u : State}
    (hu : ScanResult P (colStepOp P s) u) : ScanResult P s u where
  status := by rw [hu.status, colStepOp_status]
  regs := by rw [hu.regs, colStepOp_regs]
  src := by rw [hu.src, colStepOp_src]
  image := by
    intro x y i j hxw hyh hi hj
    have himage := hu.image x y i j
    rw [colStepOp_run, outputBlock_colStepOp P hxw hyh] at himage
    exact himage hxw hyh hi hj
  outside := by
    intro c hc
    rw [hu.outside c (by rwa [colStepOp_run]), h.read_dst_outside hy hc]

/-- At the end of the scan every pixel has been scanned; the end of the command adds DONE only (R290). -/
theorem State.MidScan.result_of_end (h : s.MidScan P) (hy : s.run.h.toNat ≤ s.pos.y.toNat) :
    ScanResult P s (finishOp s) := by
  rw [finishOp_of_untainted h.untainted]
  exact ⟨rfl, rfl, rfl, fun x y i j hxw hyh hi hj => h.output x y hxw hyh (.inl (by omega)) i j hi hj,
    fun _ _ => rfl⟩

theorem State.MidScan.step_colStep (h : s.MidScan P) (hy : s.pos.y.toNat < s.run.h.toNat) :
    (coreWith P).step s = .next (colStepOp P s) :=
  (turnOp_nil h.inbox).trans (congrArg _ (engineStep_of_scanning P h.busy hy))

theorem State.MidScan.step_finish (h : s.MidScan P) (hy : s.run.h.toNat ≤ s.pos.y.toNat) :
    (coreWith P).step s = .next (finishOp s) :=
  (turnOp_nil h.inbox).trans (congrArg _ (engineStep_of_scanned P h.busy hy))

/-- Pixels are left exactly while the row is in the image. -/
theorem State.ScanInRange.row_lt_iff (h : s.ScanInRange P) {left : Nat}
    (hleft : s.pos.y.toNat * s.run.w.toNat + s.pos.x.toNat + left = s.run.h.toNat * s.run.w.toNat) :
    s.pos.y.toNat < s.run.h.toNat ↔ 0 < left := by
  constructor
  · intro hy
    have hrow : (s.pos.y.toNat + 1) * s.run.w.toNat ≤ s.run.h.toNat * s.run.w.toNat := Nat.mul_le_mul_right _ hy
    rw [Nat.succ_mul] at hrow
    have hcol := h.col
    omega
  · intro hpos
    refine lt_of_le_of_ne h.row fun hend => ?_
    rw [hend] at hleft
    omega

/-- The scan and the end of the command, by induction on the pixels left: a step for each and one more (log 16). -/
theorem State.MidScan.run_to_end (h : s.MidScan P) {left : Nat}
    (hleft : s.pos.y.toNat * s.run.w.toNat + s.pos.x.toNat + left = s.run.h.toNat * s.run.w.toNat) :
    ∃ u, (coreWith P).run (left + 1) s = .next u ∧ ScanResult P s u := by
  induction left generalizing s with
  | zero =>
    have hend : s.run.h.toNat ≤ s.pos.y.toNat := not_lt.mp (mt (h.ready.range.row_lt_iff hleft).mp (lt_irrefl 0))
    exact ⟨finishOp s, run_next _ 0 (h.step_finish hend), h.result_of_end hend⟩
  | succ left ih =>
    have hy : s.pos.y.toNat < s.run.h.toNat := (h.ready.range.row_lt_iff hleft).mpr left.succ_pos
    have hnext := h.colStep hy
    have hleft' : (colStepOp P s).pos.y.toNat * (colStepOp P s).run.w.toNat + (colStepOp P s).pos.x.toNat + left =
        (colStepOp P s).run.h.toNat * (colStepOp P s).run.w.toNat := by
      rw [colStepOp_run, rowMajor_colStepOp P h.ready.range.col hy]
      omega
    obtain ⟨u, hrun, hresult⟩ := ih hnext hleft'
    exact ⟨u, (run_next _ (left + 1) (h.step_colStep hy)).trans hrun, h.result_of_colStep hy hresult⟩

end

/-! ### The command -/

/-- A state in which SCALE_IMAGE starts a scan that is left alone: its preconditions hold and its tables are there or
can be built. -/
structure State.Accepts (P : Params) (s : State) : Prop where
  inv : s.Inv P
  idle : s.status.busy = false
  alive : s.status.err ≠ 4#3
  pre : precondition P s.regs = none
  build : s.tables.csValid = true ∨ s.env.tblOk = true
  inbox : s.env.inbox = []

section
variable {P : Params} {s : State}

/-- The scan started, on a block that meets the invariant: both tables are built. -/
theorem State.Accepts.scaleImageOp_eq (h : s.Accepts P) :
    scaleImageOp P s = { s with
      status := { busy := true, done := false, err := 0#3 }
      tables := { cst := .built, rot := .built, csValid := true, rotValid := true }
      pos := { y := 0, x := 0 }
      blend := { bxy := 0#8, brow := s.blend.brow.clearBelow s.regs.width.toNat, carry := 0#8 }
      run := { n := s.regs.scale, w := s.regs.width, h := s.regs.height }
      env := { s.env with tainted := false } } := by
  have hcst : (if s.tables.csValid then s.tables.cst else .built) = .built := ite_eq_right_iff.mpr h.inv.tables.cst
  have hrot : (if s.tables.rotValid then s.tables.rot else .built) = .built := ite_eq_right_iff.mpr h.inv.tables.rot
  rw [scaleImageOp_starts h.idle h.alive h.pre h.build, hcst, hrot]

theorem State.Accepts.scaleImageOp_status (h : s.Accepts P) :
    (scaleImageOp P s).status = { busy := true, done := false, err := 0#3 } := by
  rw [h.scaleImageOp_eq]

theorem State.Accepts.scaleImageOp_tables (h : s.Accepts P) :
    (scaleImageOp P s).tables = { cst := .built, rot := .built, csValid := true, rotValid := true } := by
  rw [h.scaleImageOp_eq]

theorem State.Accepts.scaleImageOp_pos (h : s.Accepts P) : (scaleImageOp P s).pos = { y := 0, x := 0 } := by
  rw [h.scaleImageOp_eq]

theorem State.Accepts.scaleImageOp_run (h : s.Accepts P) :
    (scaleImageOp P s).run = { n := s.regs.scale, w := s.regs.width, h := s.regs.height } := by
  rw [h.scaleImageOp_eq]

theorem State.Accepts.scaleImageOp_regs (h : s.Accepts P) : (scaleImageOp P s).regs = s.regs := by
  rw [h.scaleImageOp_eq]

theorem State.Accepts.scaleImageOp_src (h : s.Accepts P) : (scaleImageOp P s).src = s.src := by
  rw [h.scaleImageOp_eq]

theorem State.Accepts.scaleImageOp_dst (h : s.Accepts P) : (scaleImageOp P s).dst = s.dst := by
  rw [h.scaleImageOp_eq]

/-- The started scan is in range: its operands passed the preconditions (60_exceptions.md R307). -/
theorem State.Accepts.scanInRange (h : s.Accepts P) : (scaleImageOp P s).ScanInRange P := by
  obtain ⟨hw1, hwmax, hh1, hnmin, hnmax, hcap⟩ := (precondition_none_iff P s.regs).mp h.pre
  rw [h.scaleImageOp_eq]
  exact ⟨rfl, rfl, (supports_iff P.toSizes s.regs.scale).mpr ⟨hnmin, hnmax⟩, ⟨hw1, hwmax⟩, hh1,
    hcap.trans_lt h.inv.regs.dstCap, Nat.zero_le _, hw1, fun _ => rfl⟩

/-- The started scan meets the invariant of its middle. -/
theorem State.Accepts.midScan (h : s.Accepts P) (hP : legalParams P = true) (hgate : P.gateBrOnly = false) :
    (scaleImageOp P s).MidScan P := by
  have hrange := h.scanInRange
  rw [h.scaleImageOp_eq] at hrange ⊢
  refine ⟨⟨hP, hgate, hrange, ⟨fun _ => rfl, fun _ => rfl⟩, ?relay⟩, ?canonical, outputHolds_of_start P rfl,
    rfl, h.inbox, rfl⟩
  case relay =>
    exact relayHolds_of_start P hrange.width.1 rfl fun c hc =>
      (Memory.read_clearBelow s.blend.brow s.regs.width.toNat c).trans (if_pos hc)
  case canonical =>
    exact ⟨h.inv.canonical.src, h.inv.canonical.dst, Memory.wf_clearBelow h.inv.canonical.brow _⟩

/-- SCALE_IMAGE left alone ends with the result of its scan. -/
theorem State.Accepts.run_to_end (h : s.Accepts P) (hP : legalParams P = true) (hgate : P.gateBrOnly = false) :
    ∃ u, (coreWith P).run (s.regs.width.toNat * s.regs.height.toNat + 1) (scaleImageOp P s) = .next u ∧
      ScanResult P (scaleImageOp P s) u := by
  refine (h.midScan hP hgate).run_to_end ?_
  rw [h.scaleImageOp_pos, h.scaleImageOp_run]
  simp [Nat.mul_comm]

end

/-- This hardware runs as the block with the parameters `hw`. -/
theorem coreWith_run_hw_eq : (coreWith hw).run = core.run := funext fun k => funext (coreWith_run_hw k)

/-- Settles O56, by `State.Accepts.run_to_end`; this hardware is the case of `hw`. -/
theorem scaleImageComputesTheClosedForm : Obligations.ScaleImageComputesTheClosedForm := by
  unfold Obligations.ScaleImageComputesTheClosedForm
  intro claim
  have hany : ∀ P : Params, legalParams P = true → P.gateBrOnly = false →
      claim P (execWith P) (coreWith P).run := by
    intro P hP hgate s hinv hidle halive hpre hbuild hinbox
    have h : s.Accepts P := ⟨hinv, hidle, halive, hpre, hbuild, hinbox⟩
    obtain ⟨u, hrun, hresult⟩ := h.run_to_end hP hgate
    refine ⟨scaleImageOp P s, u, rfl, h.scaleImageOp_run, congrArg Tables.cst h.scaleImageOp_tables,
      congrArg Tables.rot h.scaleImageOp_tables, h.scaleImageOp_src, ?steps, ?status,
      hresult.regs.trans h.scaleImageOp_regs, hresult.src.trans h.scaleImageOp_src, hresult.image,
      fun c hc => ?outside⟩
    case steps => rwa [h.scaleImageOp_run]
    case status => rw [hresult.status, h.scaleImageOp_status]
    case outside => rw [hresult.outside c hc, h.scaleImageOp_dst]
  have hhere := hany hw legal_hw rfl
  rw [execWith_hw_eq_exec, coreWith_run_hw_eq] at hhere
  exact ⟨hhere, hany⟩

/-! ### Two commands (R292 (c)) -/

/-- Two accepted commands with the same operands over the same source image have the same output blocks. -/
theorem State.Accepts.outputBlock_eq {P : Params} {s s' : State} (h : s.Accepts P) (h' : s'.Accepts P)
    (hregs : s'.regs = s.regs)
    (hsrc : ∀ c, c < s.regs.width.toNat * s.regs.height.toNat → s'.src.read c = s.src.read c) {x y : Nat}
    (hx : x < s.regs.width.toNat) (hy : y < s.regs.height.toNat) :
    outputBlock P (scaleImageOp P s') x y = outputBlock P (scaleImageOp P s) x y := by
  refine outputBlock_congr P (h'.scaleImageOp_run.trans ?run)
    (cstRead_congr P (h'.scaleImageOp_tables.trans h.scaleImageOp_tables.symm)) ?src ?_ ?_
  case run => rw [h.scaleImageOp_run, hregs]
  case src => rwa [h.scaleImageOp_run, h'.scaleImageOp_src, h.scaleImageOp_src]
  all_goals rwa [h.scaleImageOp_run]

/-- Settles O57: each run ends with the closed form (`State.Accepts.run_to_end`), which is the same for both; every
element of the image lies in some block (`outIndex_surj`). -/
theorem sameInputSameImage : Obligations.SameInputSameImage := by
  unfold Obligations.SameInputSameImage
  intro claim
  have hany : ∀ P : Params, legalParams P = true → P.gateBrOnly = false →
      claim P (execWith P) (coreWith P).run := by
    intro P hP hgate s s' hinv hinv' hidle hidle' halive halive' hpre hregs hbuild hbuild' hinbox hinbox' hsrc
    have h : s.Accepts P := ⟨hinv, hidle, halive, hpre, hbuild, hinbox⟩
    have h' : s'.Accepts P := ⟨hinv', hidle', halive', hregs ▸ hpre, hbuild', hinbox'⟩
    obtain ⟨u, hrun, hresult⟩ := h.run_to_end hP hgate
    obtain ⟨u', hrun', hresult'⟩ := h'.run_to_end hP hgate
    rw [hregs] at hrun'
    refine ⟨_, _, u, u', rfl, rfl, hrun, hrun', congrArg Status.done hresult.status,
      congrArg Status.done hresult'.status, fun c hc => ?image⟩
    case image =>
      obtain ⟨x, y, i, j, hx, hy, hi, hj, rfl⟩ := outIndex_surj hc
      have himage := hresult.image x y i j
      have himage' := hresult'.image x y i j
      rw [h.scaleImageOp_run] at himage
      rw [h'.scaleImageOp_run, hregs, h.outputBlock_eq h' hregs hsrc hx hy] at himage'
      exact (himage' hx hy hi hj).trans (himage hx hy hi hj).symm
  have hhere := hany hw legal_hw rfl
  rw [execWith_hw_eq_exec, coreWith_run_hw_eq] at hhere
  exact ⟨hhere, hany⟩

end Sys2Proof.Machine
end

section
/-! PROOFS. The errors of the commands (60_exceptions.md): the first precondition of SCALE_IMAGE that fails is reported
(R301 to R305), and a dead block ends every command (R309). -/

namespace Sys2Proof.Machine

/-! ### The preconditions one by one, in the order of R305 -/

section
variable {P : Params} {r : Regs}

theorem precondition_of_bad_size (h : r.width.toNat < 1 ∨ r.height.toNat < 1 ∨ P.maxW < r.width.toNat) :
    precondition P r = some .invalidDimension := if_pos h

variable (hwidth : 1 ≤ r.width.toNat) (hheight : 1 ≤ r.height.toNat) (hmaxW : r.width.toNat ≤ P.maxW)
include hwidth hheight hmaxW

theorem precondition_of_bad_scale (h : r.scale.toNat < P.minScale ∨ P.maxScale < r.scale.toNat) :
    precondition P r = some .unsupportedScale := by
  rw [precondition, if_neg (by omega), if_pos h]

theorem precondition_of_small_buffer (hmin : P.minScale ≤ r.scale.toNat) (hmaxScale : r.scale.toNat ≤ P.maxScale)
    (h : r.dstCap.toNat < r.width.toNat * r.scale.toNat * r.height.toNat * r.scale.toNat) :
    precondition P r = some .bufferTooSmall := by
  rw [precondition, if_neg (by omega), if_neg (by omega), if_pos h]

end

/-- No precondition reports the fatal error. -/
theorem precondition_ne_tableInitFailure (P : Params) (r : Regs) : precondition P r ≠ some .tableInitFailure := by
  simp only [precondition]
  split_ifs <;> exact nofun

/-! ### SCALE_IMAGE without a scan -/

theorem endCommand_acceptCommand_of_dead {s : State} (h : s.status.err = 4#3) :
    endCommand (acceptCommand s) = { s with status := { busy := false, done := false, err := 4#3 } } := by
  rw [acceptCommand_of_dead h]
  rfl

section
variable {P : Params} {s : State} (hidle : s.status.busy = false)
include hidle

theorem scaleImageOp_of_dead (h : s.status.err = 4#3) : scaleImageOp P s = endCommand (acceptCommand s) := by
  rw [scaleImageOp, if_neg (by simp [hidle]), if_pos (by rw [fatal_acceptCommand, fatal_iff, h])]

/-- A failed precondition is recorded, and the command ends (R304). -/
theorem scaleImageOp_of_rejected (halive : s.status.err ≠ 4#3) {e : ErrorName}
    (hpre : precondition P s.regs = some e) :
    scaleImageOp P s = { s with status := { busy := false, done := false, err := errorCode e } } := by
  rw [scaleImageOp, if_neg (by simp [hidle]), if_neg (by rwa [fatal_acceptCommand, fatal_iff]), hpre]
  rfl

end

/-! ### The obligations -/

/-- Settles O43: neither command gets past its test for the fatal error. -/
theorem deadBlockEndsEveryCommand : Obligations.DeadBlockEndsEveryCommand := by
  intro s hidle hdead
  have hend := endCommand_acceptCommand_of_dead hdead
  exact ⟨congrArg _ ((initTablesOp_of_dead hidle hdead).trans hend),
    congrArg _ ((scaleImageOp_of_dead hidle hdead).trans hend)⟩

/-- Settles O41: the error each clause makes `precondition` answer is reported by `scaleImageOp_of_rejected`; this
hardware is the case of `hw`. -/
theorem scaleImageReportsTheFirstError : Obligations.ScaleImageReportsTheFirstError := by
  unfold Obligations.ScaleImageReportsTheFirstError
  intro claim
  have hany : ∀ P : Params, claim P (execWith P) := by
    intro P s hidle halive
    refine ⟨fun hsize => ?size, fun hwidth hheight hmaxW hscale => ?scale,
      fun hwidth hheight hmaxW hmin hmaxScale hcap => ?buffer⟩
    case size => exact congrArg _ (scaleImageOp_of_rejected hidle halive (precondition_of_bad_size hsize))
    case scale =>
      exact congrArg _ (scaleImageOp_of_rejected hidle halive (precondition_of_bad_scale hwidth hheight hmaxW hscale))
    case buffer =>
      exact congrArg _ (scaleImageOp_of_rejected hidle halive
        (precondition_of_small_buffer hwidth hheight hmaxW hmin hmaxScale hcap))
  exact ⟨execWith_hw_eq_exec ▸ hany hw, hany⟩

end Sys2Proof.Machine
end

section
/-! PROOFS. The scan keeps the invariant: no reserved blend type enters the relay (30_encoding.md R92), and COLSTEP
keeps each part of `State.Inv`. -/

namespace Sys2Proof.Machine

/-! ### Bytes without a reserved type (30_encoding.md R92, R93) -/

theorem legalBlend_iff (b : BlendInfo) :
    legalBlend b = true ↔
      legalType (tlOf b) = true ∧ legalType (trOf b) = true ∧ legalType (brOf b) = true ∧
        legalType (blOf b) = true := by
  simp only [legalBlend, Bool.and_eq_true, and_assoc]

theorem legalBlend_packBlend (bl br tr tl : BlendType) :
    legalBlend (packBlend bl br tr tl) = true ↔
      legalType tl = true ∧ legalType tr = true ∧ legalType br = true ∧ legalType bl = true := by
  rw [legalBlend_iff, tlOf_packBlend, trOf_packBlend, brOf_packBlend, blOf_packBlend]

theorem legalBlend_zero : legalBlend 0#8 = true := rfl

section
variable {b : BlendInfo} {t : BlendType} (hb : legalBlend b = true) (ht : legalType t = true)
include hb ht

theorem legalBlend_setTl : legalBlend (setTl b t) = true := by
  obtain ⟨-, htr, hbr, hbl⟩ := (legalBlend_iff b).mp hb
  exact (legalBlend_packBlend ..).mpr ⟨ht, htr, hbr, hbl⟩

theorem legalBlend_setTr : legalBlend (setTr b t) = true := by
  obtain ⟨htl, -, hbr, hbl⟩ := (legalBlend_iff b).mp hb
  exact (legalBlend_packBlend ..).mpr ⟨htl, ht, hbr, hbl⟩

theorem legalBlend_setBr : legalBlend (setBr b t) = true := by
  obtain ⟨htl, htr, -, hbl⟩ := (legalBlend_iff b).mp hb
  exact (legalBlend_packBlend ..).mpr ⟨htl, htr, ht, hbl⟩

theorem legalBlend_setBl : legalBlend (setBl b t) = true := by
  obtain ⟨htl, htr, hbr, -⟩ := (legalBlend_iff b).mp hb
  exact (legalBlend_packBlend ..).mpr ⟨htl, htr, hbr, ht⟩

end

/-! ### BROW (10_state.md R27) -/

/-- What `State.BlendSound` says of BROW. -/
def BrowSound (P : Params) (m : Memory 8) : Prop := ∀ c ∈ m, c.1 < P.maxW ∧ legalBlend c.2 = true

section
variable {P : Params} {m : Memory 8}

/-- An unlisted slot reads 0, which is legal too. -/
theorem BrowSound.legalBlend_read (h : BrowSound P m) (a : Nat) : legalBlend (m.read a) = true := by
  by_cases hzero : m.read a = 0
  · rw [hzero]
    exact legalBlend_zero
  · exact (h _ (Memory.mem_of_read hzero)).2

theorem BrowSound.write (h : BrowSound P m) {a : Nat} (ha : a < P.maxW) {b : BlendInfo} (hb : legalBlend b = true) :
    BrowSound P (m.write a b) := by
  intro c hc
  obtain rfl | hold := Memory.mem_write hc
  · exact ⟨ha, hb⟩
  · exact h c hold

theorem BrowSound.clearBelow (h : BrowSound P m) (n : Nat) : BrowSound P (m.clearBelow n) :=
  fun c hc => h c (List.mem_of_mem_filter hc)

end

/-! ### The relay -/

section
variable {P : Params} {s : State}

theorem State.BlendSound.rowStart (h : s.BlendSound P) : (rowStartOp s).BlendSound P where
  bxy := by
    unfold rowStartOp
    split <;> exact h.bxy
  carry := by
    unfold rowStartOp
    split
    · exact legalBlend_zero
    · exact h.carry
  brow := by
    rw [rowStartOp_brow]
    exact h.brow

/-- RELAY of legal types in a column of the image stores legal bytes, at slots of BROW. -/
theorem State.BlendSound.relay (h : s.BlendSound P) (hcol : s.pos.x.toNat < s.run.w.toNat)
    (hwidth : s.run.w.toNat ≤ P.maxW) {bf bg bj bk : BlendType} (hf : legalType bf = true) (hg : legalType bg = true)
    (hj : legalType bj = true) (hk : legalType bk = true) : (relayOp bf bg bj bk s).BlendSound P := by
  have hbrow : BrowSound P s.blend.brow := h.brow
  have hflushed : BrowSound P (s.blend.brow.write s.pos.x.toNat (setTr s.blend.carry bj)) :=
    hbrow.write (by omega) (legalBlend_setTr h.carry hj)
  refine ⟨legalBlend_setBr (hbrow.legalBlend_read _) hf, legalBlend_setTl legalBlend_zero hk, ?ahead⟩
  case ahead =>
    unfold relayOp
    dsimp only
    split
    case isTrue hahead => exact hflushed.write (by omega) (legalBlend_setBl (hflushed.legalBlend_read _) hg)
    case isFalse => exact hflushed

/-! ### COLSTEP -/

theorem State.BlendSound.colStep (h : s.BlendSound P) (hrange : s.ScanInRange P) : (colStepOp P s).BlendSound P := by
  obtain ⟨hf, hg, hj, hk⟩ := corners_legal P (cstRead P s) (kernel4At s s.pos.x.toNat s.pos.y.toNat)
  have hrelay := h.rowStart.relay (by rw [rowStartOp_pos, rowStartOp_run]; exact hrange.col)
    (by rw [rowStartOp_run]; exact hrange.width.2) hf hg hj hk
  constructor <;> rw [colStepOp_blend]
  exacts [hrelay.bxy, hrelay.carry, hrelay.brow]

/-- The registers are not written, and the position stays below the width and up to the height. -/
theorem State.RegsSound.colStep (h : s.RegsSound P) (hrange : (colStepOp P s).ScanInRange P) :
    (colStepOp P s).RegsSound P := by
  have hcol := hrange.col
  have hrow := hrange.row
  have hrunW := h.runW
  have hrunH := h.runH
  have hpow : 2 ^ (P.dimBits + 1) = 2 * 2 ^ P.dimBits := pow_succ' 2 P.dimBits
  constructor <;> simp only [colStepOp_regs, colStepOp_run] at *
  exacts [h.width, h.height, h.dstCap, hrunW, hrunH, by omega, by omega]

/-- The block of a supported scale lies in the MAXSCALE x MAXSCALE corner. -/
theorem State.BlockSound.colStep (h : s.BlockSound P) (hP : legalParams P = true) (hbuilt : s.tables.rot = .built)
    (hrange : s.ScanInRange P) : (colStepOp P s).BlockSound P := by
  intro i j hi hj hout
  have hscale := hrange.scale_bounds
  rw [colStepOp_outside hP hbuilt hscale hi hj (by omega)]
  exact h i j hi hj hout

theorem State.Inv.colStep (h : s.Inv P) (hP : legalParams P = true) (hbusy : s.status.busy = true)
    (hy : s.pos.y.toNat < s.run.h.toNat) : (colStepOp P s).Inv P := by
  have hrange := h.scan hbusy
  have hnext := hrange.colStep hy
  exact {
    canonical := h.canonical.colStep P
    tables := by
      constructor <;> rw [colStepOp_tables]
      exacts [h.tables.cst, h.tables.rot]
    status := by
      constructor <;> simp only [colStepOp_status, colStepOp_tables]
      exacts [h.status.code, h.status.idle, h.status.fatal, h.status.done]
    scan := fun _ => hnext
    blend := h.blend.colStep hrange
    regs := h.regs.colStep hnext
    block := h.block.colStep hP (h.tables.rot hrange.rot) hrange
    host := by
      rw [colStepOp_env]
      exact h.host }

end

end Sys2Proof.Machine
end

section
/-! PROOFS. Each operation a step can run keeps the invariant `State.Inv` (60_exceptions.md R307): what the host changes,
the start and the ends of a command, reset, the engine's step and `poll`. -/

namespace Sys2Proof.Machine

/-- The reset state meets the invariant whatever the parameters: it is idle and all 0. -/
theorem inv_reset (P : Params) : State.reset.Inv P where
  canonical := ⟨rfl, rfl, rfl⟩
  tables := ⟨nofun, nofun⟩
  status := ⟨Nat.zero_le _, fun hne => absurd rfl hne, nofun, nofun⟩
  scan := nofun
  blend := ⟨legalBlend_zero, legalBlend_zero, nofun⟩
  regs := ⟨Nat.two_pow_pos _, Nat.two_pow_pos _, Nat.two_pow_pos _, Nat.two_pow_pos _, Nat.two_pow_pos _,
    Nat.two_pow_pos _, Nat.two_pow_pos _⟩
  block := by
    intro i j hi hj _
    rw [cell_eq_getElem _ hi hj]
    exact Vector.getElem_replicate _
  host := nofun

theorem errorCode_le (e : ErrorName) : (errorCode e).toNat ≤ 4 := by
  cases e <;> decide

/-- Code 4 is that of the fatal error alone (30_encoding.md R98). -/
theorem errorCode_ne_four {e : ErrorName} (h : e ≠ .tableInitFailure) : errorCode e ≠ 4#3 := by
  cases e with
  | tableInitFailure => exact absurd rfl h
  | invalidDimension | bufferTooSmall | unsupportedScale => decide

section
variable {P : Params} {s : State}

/-! ### What the host changes -/

/-- The host writes the memories, the registers and what surrounds the block; nothing else of the invariant speaks of
them. -/
theorem State.Inv.hostChange (h : s.Inv P) {src dst : Memory 32} {regs : Regs} {env : Env} (hsrc : src.wf = true)
    (hdst : dst.wf = true) (hwidth : regs.width.toNat < 2 ^ P.dimBits) (hheight : regs.height.toNat < 2 ^ P.dimBits)
    (hdstCap : regs.dstCap.toNat < 2 ^ P.capBits) (hinbox : ∀ t ∈ env.inbox, t.fromHost = true) :
    State.Inv P { s with src := src, dst := dst, regs := regs, env := env } where
  canonical := ⟨hsrc, hdst, h.canonical.brow⟩
  tables := { h.tables with }
  status := { h.status with }
  scan := fun hbusy => { h.scan hbusy with }
  blend := { h.blend with }
  regs := { h.regs with width := hwidth, height := hheight, dstCap := hdstCap }
  block := h.block
  host := hinbox

theorem State.Inv.withEnv (h : s.Inv P) {env : Env} (hinbox : ∀ t ∈ env.inbox, t.fromHost = true) :
    State.Inv P { s with env := env } :=
  h.hostChange h.canonical.src h.canonical.dst h.regs.width h.regs.height h.regs.dstCap hinbox

theorem State.Inv.withRegs (h : s.Inv P) {regs : Regs} (hwidth : regs.width.toNat < 2 ^ P.dimBits)
    (hheight : regs.height.toNat < 2 ^ P.dimBits) (hdstCap : regs.dstCap.toNat < 2 ^ P.capBits) :
    State.Inv P { s with regs := regs } :=
  h.hostChange h.canonical.src h.canonical.dst hwidth hheight hdstCap h.host

theorem State.Inv.delivered (h : s.Inv P) (v : HostWord) : (deliver v s).Inv P := h.withEnv h.host

theorem State.Inv.slotTaken (h : s.Inv P) {slot : Slot} {rest : List Slot} (hinbox : s.env.inbox = slot :: rest) :
    (takeSlot rest s).Inv P :=
  h.withEnv fun t ht => h.host t (hinbox ▸ List.mem_cons_of_mem slot ht)

theorem State.Inv.srcStore (h : s.Inv P) (a : Nat) (p : Pixel) : (srcStoreOp a p s).Inv P := by
  rw [srcStoreOp_eq]
  exact h.hostChange (Memory.wf_write h.canonical.src a p) h.canonical.dst h.regs.width h.regs.height h.regs.dstCap
    h.host

theorem State.Inv.dstStore (h : s.Inv P) (a : Nat) (p : Pixel) : (dstStoreOp a p s).Inv P := by
  rw [dstStoreOp_eq]
  exact h.hostChange h.canonical.src (Memory.wf_write h.canonical.dst a p) h.regs.width h.regs.height h.regs.dstCap
    h.host

theorem State.Inv.dstLoad (h : s.Inv P) (a : Nat) : (dstLoadOp a s).Inv P := by
  rw [dstLoadOp_frame]
  exact h.withEnv h.host

/-- The image left at any value is still in canonical form (93_implementation_defined.md U3, U7). -/
theorem State.Inv.scrambled (h : s.Inv P) : (scrambleDst s).Inv P :=
  h.hostChange h.canonical.src (Memory.wf_fillBelow h.canonical.dst _ _) h.regs.width h.regs.height h.regs.dstCap h.host

/-! ### The ends of a command -/

/-- A block left idle has no scan to be in range. -/
theorem State.Inv.ended (h : s.Inv P) {status : Status} {tables : Tables} (hbusy : status.busy = false)
    (htables : { s with status := status, tables := tables }.TablesSound)
    (hstatus : { s with status := status, tables := tables }.StatusSound) :
    State.Inv P { s with status := status, tables := tables } where
  canonical := { h.canonical with }
  tables := htables
  status := hstatus
  scan := fun hscan => absurd (hbusy.symm.trans hscan) Bool.false_ne_true
  blend := { h.blend with }
  regs := { h.regs with }
  block := h.block
  host := h.host

/-- A command that ends without an image leaves DONE 0 and its code, the fatal one with CSTAB unbuilt (R304, R308). -/
theorem State.Inv.endedWith (h : s.Inv P) {code : BitVec 3} {tables : Tables} (hcode : code.toNat ≤ 4)
    (htables : { s with tables := tables }.TablesSound) (hfatal : code = 4#3 → tables.csValid = false) :
    State.Inv P { s with status := { busy := false, done := false, err := code }, tables := tables } :=
  h.ended rfl { htables with } ⟨hcode, fun _ => ⟨rfl, rfl⟩, hfatal, nofun⟩

/-- DONE is set without an error, with both tables valid (46_driver.md R290). -/
theorem State.Inv.done (h : s.Inv P) (herr : s.status.err = 0#3) (hcst : s.tables.csValid = true)
    (hrot : s.tables.rotValid = true) :
    State.Inv P { s with status := { s.status with busy := false, done := true } } :=
  h.ended rfl { h.tables with }
    ⟨h.status.code, fun hne => absurd herr hne, h.status.fatal, fun _ => ⟨rfl, hcst, hrot⟩⟩

/-- A busy block has no error to report (R304), so its scan can end with DONE. -/
theorem State.Inv.finish (h : s.Inv P) (hbusy : s.status.busy = true) : (finishOp s).Inv P := by
  have hrange := h.scan hbusy
  have herr : s.status.err = 0#3 := by
    by_contra hne
    exact absurd hbusy (by simp [(h.status.idle hne).1])
  unfold finishOp
  dsimp only
  split
  · exact h.scrambled.done herr hrange.cst hrange.rot
  · exact h.done herr hrange.cst hrange.rot

/-! ### The commands -/

/-- The tables both builds leave, the guards of which are set (46_driver.md R288). -/
theorem State.TablesSound.built (h : s.TablesSound) :
    { s with tables :=
      { cst := if s.tables.csValid then s.tables.cst else .built
        rot := if s.tables.rotValid then s.tables.rot else .built
        csValid := true
        rotValid := true } }.TablesSound :=
  ⟨fun _ => ite_eq_right_iff.mpr h.cst, fun _ => ite_eq_right_iff.mpr h.rot⟩

/-- A build that fails leaves ROTTAB built and CSTAB as it was (60_exceptions.md R308). -/
theorem State.TablesSound.rotBuilt (h : s.TablesSound) :
    { s with tables := { s.tables with
      rot := if s.tables.rotValid then s.tables.rot else .built
      rotValid := true } }.TablesSound :=
  ⟨h.cst, fun _ => ite_eq_right_iff.mpr h.rot⟩

/-- The cases of INIT_TABLES are those of `initTablesBuildsBothTables`. -/
theorem State.Inv.initTables (h : s.Inv P) : (initTablesOp s).Inv P := by
  obtain ⟨-, hdead, hbuilt, hfailed⟩ := initTablesBuildsBothTables s
  rcases Bool.eq_false_or_eq_true s.status.busy with hbusy | hidle
  · rwa [initTablesOp_of_busy hbusy]
  by_cases herr : s.status.err = 4#3
  · rw [Host.Outcome.next.inj (hdead hidle herr)]
    exact h.endedWith (by decide) h.tables fun _ => h.status.fatal herr
  by_cases hbuild : s.tables.csValid = true ∨ s.env.tblOk = true
  · rw [Host.Outcome.next.inj (hbuilt hidle herr hbuild)]
    exact h.endedWith (by decide) h.tables.built nofun
  · obtain ⟨hvalid, htblOk⟩ : s.tables.csValid = false ∧ s.env.tblOk = false := by simpa using hbuild
    rw [Host.Outcome.next.inj (hfailed hidle herr hvalid htblOk)]
    exact h.endedWith (by decide) h.tables.rotBuilt fun _ => hvalid

/-- The scan starts in range, since its operands passed the preconditions, and with nothing marked (R307). -/
theorem State.Inv.scanStarted (h : s.Inv P) (hpre : precondition P s.regs = none) :
    State.Inv P { s with
      status := { busy := true, done := false, err := 0#3 }
      tables :=
        { cst := if s.tables.csValid then s.tables.cst else .built
          rot := if s.tables.rotValid then s.tables.rot else .built
          csValid := true
          rotValid := true }
      pos := { y := 0, x := 0 }
      blend := { bxy := 0#8, brow := s.blend.brow.clearBelow s.regs.width.toNat, carry := 0#8 }
      run := { n := s.regs.scale, w := s.regs.width, h := s.regs.height }
      env := { s.env with tainted := false } } := by
  obtain ⟨hw1, hwmax, hh1, hnmin, hnmax, hcap⟩ := (precondition_none_iff P s.regs).mp hpre
  exact {
    canonical := ⟨h.canonical.src, h.canonical.dst, Memory.wf_clearBelow h.canonical.brow _⟩
    tables := { h.tables.built with }
    status := ⟨Nat.zero_le _, fun hne => absurd rfl hne, nofun, nofun⟩
    scan := fun _ => ⟨rfl, rfl, (supports_iff P.toSizes s.regs.scale).mpr ⟨hnmin, hnmax⟩, ⟨hw1, hwmax⟩, hh1,
      hcap.trans_lt h.regs.dstCap, Nat.zero_le _, hw1, fun _ => rfl⟩
    blend := ⟨legalBlend_zero, legalBlend_zero, BrowSound.clearBelow h.blend.brow _⟩
    regs := ⟨h.regs.width, h.regs.height, h.regs.dstCap, h.regs.width, h.regs.height, Nat.two_pow_pos _,
      Nat.two_pow_pos _⟩
    block := h.block
    host := h.host }

theorem State.Inv.scaleImage (h : s.Inv P) : (scaleImageOp P s).Inv P := by
  rcases Bool.eq_false_or_eq_true s.status.busy with hbusy | hidle
  · rwa [scaleImageOp_of_busy P hbusy]
  by_cases herr : s.status.err = 4#3
  · rw [scaleImageOp_of_dead hidle herr, endCommand_acceptCommand_of_dead herr]
    exact h.endedWith (by decide) h.tables fun _ => h.status.fatal herr
  cases hpre : precondition P s.regs with
  | some e =>
    have hcode : errorCode e ≠ 4#3 :=
      errorCode_ne_four fun he => precondition_ne_tableInitFailure P s.regs (he ▸ hpre)
    rw [scaleImageOp_of_rejected hidle herr hpre]
    exact h.endedWith (errorCode_le e) h.tables fun hfour => absurd hfour hcode
  | none =>
    by_cases hbuild : s.tables.csValid = true ∨ s.env.tblOk = true
    · rw [scaleImageOp_starts hidle herr hpre hbuild]
      exact h.scanStarted hpre
    · obtain ⟨hvalid, htblOk⟩ : s.tables.csValid = false ∧ s.env.tblOk = false := by simpa using hbuild
      rw [scaleImageOp_build_fails hidle herr hpre hvalid htblOk]
      exact h.endedWith (by decide) h.tables.rotBuilt fun _ => hvalid

/-! ### Reset (70_reset_and_hazards.md R330, R331) -/

/-- The reset state over the memories and the host's program of s, which are not the block's. -/
theorem State.Inv.resetOver (h : s.Inv P) :
    State.Inv P { State.reset with src := s.src, dst := s.dst, env := { s.env with tainted := false } } :=
  have hreset := inv_reset P
  hreset.hostChange h.canonical.src h.canonical.dst hreset.regs.width hreset.regs.height hreset.regs.dstCap h.host

theorem State.Inv.reset (h : s.Inv P) : (resetOp s).Inv P := by
  unfold resetOp
  dsimp only
  split
  · exact h.scrambled.resetOver
  · exact h.resetOver

theorem State.Inv.resetWithPin (h : s.Inv P) (tblOk : Bool) : (resetWithPinOp tblOk s).Inv P :=
  (h.withEnv (env := { s.env with tblOk := tblOk }) h.host).reset

/-! ### The engine and `poll` -/

theorem State.Inv.engine (h : s.Inv P) (hP : legalParams P = true) : (engineStep P s).Inv P := by
  rcases Bool.eq_false_or_eq_true s.status.busy with hbusy | hidle
  · rcases Nat.lt_or_ge s.pos.y.toNat s.run.h.toNat with hy | hy
    · rw [engineStep_of_scanning P hbusy hy]
      exact h.colStep hP hbusy hy
    · rw [engineStep_of_scanned P hbusy hy]
      exact h.finish hbusy
  · rwa [engineStep, if_neg (by simp [hidle])]

theorem State.Inv.poll (h : s.Inv P) (hP : legalParams P = true) {rest : List Slot}
    (hinbox : s.env.inbox = .poll :: rest) : (pollOp P s).Inv P := by
  rcases Bool.eq_false_or_eq_true s.status.busy with hbusy | hidle
  · rw [pollOp_of_busy P hbusy]
    exact (h.delivered _).engine hP
  · rw [pollOp_of_idle P hidle, hinbox, List.tail_cons]
    exact (h.delivered _).slotTaken hinbox

end

end Sys2Proof.Machine
end

section
/-! PROOFS. Every turn of a real host answers a next state and keeps the invariant (60_exceptions.md R307, 00_scope.md
R14): the operations a host can issue, the turns of the inbox, and the two statements about a step. -/

namespace Sys2Proof.Machine

/-! ### The operations a host can issue -/

/-- The operations that host accesses and reset are decoded to: formats CMDW and REGW (30_encoding.md R102), and
reset. -/
def hostOperation (i : Instr) : Prop := i.format = .cmdw ∨ i.format = .regw ∨ i = .reset

theorem hostOperation_decodeCmd (word : HostWord) : hostOperation (decodeCmd word) := by
  unfold decodeCmd
  split_ifs <;> exact .inl rfl

theorem hostOperation_decodeWr (reg value : HostWord) : hostOperation (decodeWr reg value) := by
  unfold decodeWr
  split_ifs with hcmd
  · exact hostOperation_decodeCmd value
  all_goals exact .inr (.inl rfl)

theorem hostOperation_decodeRd (reg : HostWord) : hostOperation (decodeRd reg) := by
  unfold decodeRd
  split_ifs <;> exact .inr (.inl rfl)

/-- An issue of a real host is never rejected: it is read as an operation of the host. -/
theorem decodeFor_fromHost (z : Sizes) {e : Issue} (he : (Slot.issue e).fromHost = true) :
    ∃ i, decodeFor z e = .ok i ∧ hostOperation i := by
  cases e with
  | wr reg value => exact ⟨_, rfl, hostOperation_decodeWr reg value⟩
  | rd reg => exact ⟨_, rfl, hostOperation_decodeRd reg⟩
  | patsel sel => exact absurd he Bool.false_ne_true
  | seq op =>
    have hop : op = .reset := beq_iff_eq.mp he
    exact ⟨.reset, by rw [hop]; rfl, .inr (.inr rfl)⟩

theorem toNat_dimensionBits_lt (P : Params) (v : HostWord) : (dimensionBits P v).toNat < 2 ^ P.dimBits := by
  rw [toNat_dimensionBits]
  exact Nat.mod_lt _ (Nat.two_pow_pos _)

theorem toNat_capacityBits_lt (P : Params) (v : HostWord) : (capacityBits P v).toNat < 2 ^ P.capBits := by
  rw [toNat_capacityBits]
  exact Nat.mod_lt _ (Nat.two_pow_pos _)

section
variable {P : Params} {s : State}

theorem State.Inv.operation (h : s.Inv P) {i : Instr} (hi : hostOperation i) :
    ∃ t, execWith P i s = .next t ∧ t.Inv P := by
  have hregs := h.regs
  cases i with
  | initTables => exact ⟨_, rfl, h.initTables⟩
  | scaleImage => exact ⟨_, rfl, h.scaleImage⟩
  | cmdReserved word => exact ⟨s, rfl, h⟩
  | wrScale v => exact ⟨_, rfl, h.withRegs hregs.width hregs.height hregs.dstCap⟩
  | wrWidth v => exact ⟨_, rfl, h.withRegs (toNat_dimensionBits_lt P v) hregs.height hregs.dstCap⟩
  | wrHeight v => exact ⟨_, rfl, h.withRegs hregs.width (toNat_dimensionBits_lt P v) hregs.dstCap⟩
  | wrDstCap v => exact ⟨_, rfl, h.withRegs hregs.width hregs.height (toNat_capacityBits_lt P v)⟩
  | rdStatus form =>
    cases form with
    | read reg => exact ⟨_, rfl, h.delivered _⟩
    | writeIgnored value => exact ⟨s, rfl, h⟩
  | regNonexistent reg form =>
    cases form with
    | read => exact ⟨_, rfl, h.delivered _⟩
    | write value => exact ⟨s, rfl, h⟩
  | reset => exact ⟨_, rfl, h.reset⟩
  | _ => exact absurd hi (by simp [hostOperation, Instr.format])

/-! ### The turns of the inbox -/

theorem State.Inv.issue (h : s.Inv P) {e : Issue} (he : (Slot.issue e).fromHost = true) :
    ∃ t, issueOp P.toSizes (execWith P) e s = .next t ∧ t.Inv P := by
  obtain ⟨i, hdecode, hi⟩ := decodeFor_fromHost P.toSizes he
  rw [issueOp_ok hdecode]
  exact h.operation hi

/-- A step from a state that meets the invariant answers a next state, which meets it too. -/
theorem State.Inv.turn (h : s.Inv P) (hP : legalParams P = true) :
    ∃ t, (coreWith P).step s = .next t ∧ t.Inv P := by
  rw [coreWith_step]
  cases hinbox : s.env.inbox with
  | nil => exact ⟨_, turnOp_nil hinbox, h.engine hP⟩
  | cons slot rest =>
    have htaken : (takeSlot rest s).Inv P := h.slotTaken hinbox
    cases slot with
    | issue e =>
      rw [turnOp_issue hinbox]
      exact htaken.issue (h.host _ (hinbox ▸ List.mem_cons_self))
    | poll => exact ⟨_, turnOp_poll hinbox, h.poll hP hinbox⟩
    | srcStore a p => exact ⟨_, turnOp_srcStore hinbox, htaken.srcStore a.toNat p⟩
    | dstStore a p => exact ⟨_, turnOp_dstStore hinbox, htaken.dstStore a.toNat p⟩
    | dstLoad a => exact ⟨_, turnOp_dstLoad hinbox, htaken.dstLoad a.toNat⟩
    | resetWithPin tblOk => exact ⟨_, turnOp_resetWithPin hinbox, htaken.resetWithPin tblOk⟩
    | engine => exact ⟨_, turnOp_engine hinbox, htaken.engine hP⟩

end

/-! ### The obligations -/

/-- This hardware steps as the block with the parameters `hw`. -/
theorem coreWith_step_hw_eq : (coreWith hw).step = step := funext coreWith_step_hw

/-- Settles O53: the next state is the one `State.Inv.turn` answers; this hardware is the case of `hw`. -/
theorem everyStepKeepsTheInvariant : Obligations.EveryStepKeepsTheInvariant := by
  unfold Obligations.EveryStepKeepsTheInvariant
  intro claim
  have hany : ∀ P : Params, legalParams P = true → claim P (coreWith P).step := by
    intro P hP s t hs hstep
    obtain ⟨u, hnext, hu⟩ := hs.turn hP
    have htu : t = u := Host.Outcome.next.inj (hstep.symm.trans hnext)
    exact htu ▸ hu
  exact ⟨coreWith_step_hw_eq ▸ hany hw legal_hw, hany⟩

/-- Settles O54, by `State.Inv.turn`; this hardware is the case of `hw`. -/
theorem nothingAHostDoesStopsTheMachine : Obligations.NothingAHostDoesStopsTheMachine := by
  unfold Obligations.NothingAHostDoesStopsTheMachine
  intro claim
  have hany : ∀ P : Params, legalParams P = true → claim P (coreWith P).step := by
    intro P hP s hs
    obtain ⟨t, hnext, -⟩ := hs.turn hP
    exact ⟨t, hnext⟩
  exact ⟨coreWith_step_hw_eq ▸ hany hw legal_hw, hany⟩

end Sys2Proof.Machine
end

section
/-! PROOFS. A running command ends (70_reset_and_hazards.md R350): one step of the engine for each pixel that is left,
and the end of the command. -/

namespace Sys2Proof.Machine

/-! ### The end of a command (46_driver.md R290) -/

/-- DONE is 1 and BUSY is 0, whether or not a host store has touched the image. -/
theorem finishOp_status (s : State) : (finishOp s).status = { s.status with busy := false, done := true } := by
  unfold finishOp
  dsimp only
  split <;> rfl

theorem finishOp_tables (s : State) : (finishOp s).tables = s.tables := by
  unfold finishOp
  dsimp only
  split <;> rfl

theorem finishOp_pos (s : State) : (finishOp s).pos = s.pos := by
  unfold finishOp
  dsimp only
  split <;> rfl

/-! ### The scan left alone -/

section
variable {P : Params} {s : State}

/-- A running command has no error (60_exceptions.md R304). -/
theorem State.Inv.err_of_busy (h : s.Inv P) (hbusy : s.status.busy = true) : s.status.err = 0#3 := by
  by_contra hne
  exact absurd hbusy (by simp [(h.status.idle hne).1])

/-- The position is in the image or at its end, in row-major order. -/
theorem State.ScanInRange.scanned_le (h : s.ScanInRange P) :
    s.pos.y.toNat * s.run.w.toNat + s.pos.x.toNat ≤ s.run.h.toNat * s.run.w.toNat := by
  obtain hend | hy := h.row.eq_or_lt
  · rw [hend, h.last hend, Nat.add_zero]
  · have hrow : (s.pos.y.toNat + 1) * s.run.w.toNat ≤ s.run.h.toNat * s.run.w.toNat := Nat.mul_le_mul_right _ hy
    rw [Nat.succ_mul] at hrow
    have hcol := h.col
    omega

/-- At its end a scan has its position at (height, 0) (R283). -/
theorem State.ScanInRange.pos_of_end (h : s.ScanInRange P) (hend : s.run.h.toNat ≤ s.pos.y.toNat) :
    s.pos.y.toNat = s.run.h.toNat ∧ s.pos.x = 0 := by
  have hy : s.pos.y.toNat = s.run.h.toNat := h.row.antisymm hend
  exact ⟨hy, BitVec.eq_of_toNat_eq (h.last hy)⟩

theorem coreWith_step_of_scanning (hinbox : s.env.inbox = []) (hbusy : s.status.busy = true)
    (hy : s.pos.y.toNat < s.run.h.toNat) : (coreWith P).step s = .next (colStepOp P s) :=
  (turnOp_nil hinbox).trans (congrArg _ (engineStep_of_scanning P hbusy hy))

theorem coreWith_step_of_scanned (hinbox : s.env.inbox = []) (hbusy : s.status.busy = true)
    (hend : s.run.h.toNat ≤ s.pos.y.toNat) : (coreWith P).step s = .next (finishOp s) :=
  (turnOp_nil hinbox).trans (congrArg _ (engineStep_of_scanned P hbusy hend))

/-- A running command ends with DONE, by induction on the pixels left: a step for each and one more (log 16). -/
theorem State.Inv.run_to_done (h : s.Inv P) (hP : legalParams P = true) (hbusy : s.status.busy = true)
    (hinbox : s.env.inbox = []) {left : Nat}
    (hleft : s.pos.y.toNat * s.run.w.toNat + s.pos.x.toNat + left = s.run.h.toNat * s.run.w.toNat) :
    ∃ t, (coreWith P).run (left + 1) s = .next t ∧ t.status = { busy := false, done := true, err := 0#3 } ∧
      t.pos.y.toNat = s.run.h.toNat ∧ t.pos.x = 0 := by
  induction left generalizing s with
  | zero =>
    have hrange := h.scan hbusy
    have hend : s.run.h.toNat ≤ s.pos.y.toNat := not_lt.mp (mt (hrange.row_lt_iff hleft).mp (lt_irrefl 0))
    refine ⟨finishOp s, run_next _ 0 (coreWith_step_of_scanned hinbox hbusy hend), ?status, ?pos⟩
    case status => rw [finishOp_status, ← h.err_of_busy hbusy]
    case pos =>
      rw [finishOp_pos]
      exact hrange.pos_of_end hend
  | succ left ih =>
    have hrange := h.scan hbusy
    have hy : s.pos.y.toNat < s.run.h.toNat := (hrange.row_lt_iff hleft).mpr left.succ_pos
    have hrest := ih (h.colStep hP hbusy hy) (by rwa [colStepOp_status]) (by rwa [colStepOp_env])
    rw [colStepOp_run, rowMajor_colStepOp P hrange.col hy] at hrest
    obtain ⟨t, hrun, hdone⟩ := hrest (by omega)
    exact ⟨t, (run_next _ (left + 1) (coreWith_step_of_scanning hinbox hbusy hy)).trans hrun, hdone⟩

end

/-- Settles O55, by `State.Inv.run_to_done`; this hardware is the case of `hw`. -/
theorem runningCommandEnds : Obligations.RunningCommandEnds := by
  unfold Obligations.RunningCommandEnds
  intro claim
  have hany : ∀ P : Params, legalParams P = true → claim P (coreWith P).run := by
    intro P hP s hs hbusy hinbox
    have hle := (hs.scan hbusy).scanned_le
    have hleft := Nat.add_sub_cancel' hle
    rw [Nat.mul_comm s.run.w.toNat]
    obtain ⟨t, hrun, hstatus, hpos⟩ := hs.run_to_done hP hbusy hinbox hleft
    exact ⟨t, hrun, congrArg Status.busy hstatus, congrArg Status.done hstatus, congrArg Status.err hstatus, hpos⟩
  exact ⟨coreWith_run_hw_eq ▸ hany hw legal_hw, hany⟩

end Sys2Proof.Machine
end

section
/-! PROOFS. Reset and hazards (70_reset_and_hazards.md): what reset leaves, that nothing else clears a guard or the
fatal error, and that a register write does not reach a running scan. -/

namespace Sys2Proof.Machine

/-! ### Reset (R330, R331) -/

/-- Settles O52, by `inv_reset`. -/
theorem invariantHoldsAtReset : Obligations.InvariantHoldsAtReset := ⟨inv_reset hw, fun P _ => inv_reset P⟩

theorem exec_reset (s : State) : exec .reset s = .next (resetOp s) := rfl

theorem resetOp_src (s : State) : (resetOp s).src = s.src := by
  unfold resetOp
  split <;> rfl

theorem resetOp_dst (s : State) : (resetOp s).dst = if s.status.busy then (scrambleDst s).dst else s.dst :=
  apply_ite State.dst ..

/-- A DST element outside the image is no free value (93_implementation_defined.md U3, U7). -/
theorem read_dst_scrambleDst_outside {s : State} (hwf : s.dst.wf = true) {c : Nat} (hc : imageSize s.run ≤ c) :
    (scrambleDst s).dst.read c = s.dst.read c :=
  (Memory.read_fillBelow hwf ..).trans (if_neg hc.not_gt)

/-- Settles O48: the block's own state is the reset state's; DST by the two cases of `resetOp_dst`. -/
theorem resetLeavesTheBlockIdle : Obligations.ResetLeavesTheBlockIdle := by
  intro s hwf
  refine ⟨resetOp s, exec_reset s, rfl, rfl, rfl, rfl, rfl, resetOp_status s, resetOp_src s, resetOp_tblOk s,
    fun hidle => ?idle, fun c hc => ?outside⟩
  case idle => rw [resetOp_dst, if_neg (by simp [hidle])]
  case outside =>
    rw [resetOp_dst]
    split
    · exact read_dst_scrambleDst_outside hwf hc
    · rfl

/-! ### The guards and the fatal error (R332, 60_exceptions.md R309) -/

/-- From s to t no guard is cleared, nor the fatal error. -/
structure GuardsKept (s t : State) : Prop where
  cst : s.tables.csValid = true → t.tables.csValid = true
  rot : s.tables.rotValid = true → t.tables.rotValid = true
  fatal : s.status.err = 4#3 → t.status.err = 4#3

theorem GuardsKept.of_eq {s t : State} (htables : t.tables = s.tables) (herr : t.status.err = s.status.err) :
    GuardsKept s t where
  cst h := by rwa [htables]
  rot h := by rwa [htables]
  fatal h := by rwa [herr]

theorem GuardsKept.trans {s t u : State} (h : GuardsKept s t) (h' : GuardsKept t u) : GuardsKept s u :=
  ⟨h'.cst ∘ h.cst, h'.rot ∘ h.rot, h'.fatal ∘ h.fatal⟩

/-- What an operation answers keeps the guards when its next state does. -/
theorem GuardsKept.of_next {s t u : State} (h : (.next u : Host.Outcome State Fault Refusal) = .next t)
    (hu : GuardsKept s u) : GuardsKept s t :=
  Host.Outcome.next.inj h ▸ hu

theorem acceptCommand_keepsGuards (s : State) : GuardsKept s (acceptCommand s) where
  cst := id
  rot := id
  fatal h := by rw [acceptCommand_of_dead h]

/-- CSTBUILD sets its guard or reports the fatal error (60_exceptions.md R308). -/
theorem cstBuildOp_keepsGuards (s : State) : GuardsKept s (cstBuildOp s) := by
  unfold cstBuildOp
  split_ifs
  · exact .of_eq rfl rfl
  · exact ⟨fun _ => rfl, id, id⟩
  · exact ⟨id, id, fun _ => rfl⟩

theorem rotBuildOp_keepsGuards (s : State) : GuardsKept s (rotBuildOp s) := by
  unfold rotBuildOp
  split_ifs
  · exact .of_eq rfl rfl
  · exact ⟨id, fun _ => rfl, id⟩

theorem initTablesOp_keepsGuards (s : State) : GuardsKept s (initTablesOp s) := by
  have haccept := acceptCommand_keepsGuards s
  unfold initTablesOp
  dsimp only
  split_ifs
  · exact .of_eq rfl rfl
  · exact haccept.trans (.of_eq rfl rfl)
  · exact ((haccept.trans (rotBuildOp_keepsGuards _)).trans (cstBuildOp_keepsGuards _)).trans (.of_eq rfl rfl)

theorem buildAndStart_keepsGuards (s : State) : GuardsKept s (buildAndStart s) := by
  have hbuild := (rotBuildOp_keepsGuards s).trans (cstBuildOp_keepsGuards _)
  unfold buildAndStart
  dsimp only
  split
  · exact hbuild.trans (.of_eq rfl rfl)
  · exact hbuild

/-- An error other than the fatal one is reported on a block that is not dead only. -/
theorem scaleImageOp_keepsGuards (P : Params) (s : State) : GuardsKept s (scaleImageOp P s) := by
  rcases Bool.eq_false_or_eq_true s.status.busy with hbusy | hidle
  · exact .of_eq (by rw [scaleImageOp_of_busy P hbusy]) (by rw [scaleImageOp_of_busy P hbusy])
  by_cases hdead : s.status.err = 4#3
  · rw [scaleImageOp_of_dead hidle hdead]
    exact (acceptCommand_keepsGuards s).trans (.of_eq rfl rfl)
  cases hpre : precondition P s.regs with
  | some e =>
    rw [scaleImageOp_of_rejected hidle hdead hpre]
    exact ⟨id, id, fun h => absurd h hdead⟩
  | none =>
    rw [scaleImageOp_of_accepted hidle hdead hpre]
    exact (acceptCommand_keepsGuards s).trans (buildAndStart_keepsGuards _)

theorem colStepOp_keepsGuards (P : Params) (s : State) : GuardsKept s (colStepOp P s) :=
  .of_eq (colStepOp_tables P s) (by rw [colStepOp_status])

theorem engineStep_keepsGuards (P : Params) (s : State) : GuardsKept s (engineStep P s) := by
  unfold engineStep
  split_ifs
  · exact colStepOp_keepsGuards P s
  · exact .of_eq (finishOp_tables s) (by rw [finishOp_status])
  · exact .of_eq rfl rfl

theorem pollOp_keepsGuards (P : Params) (s : State) : GuardsKept s (pollOp P s) := by
  have hread : GuardsKept s (deliver (statusWord s) s) := .of_eq rfl rfl
  unfold pollOp
  dsimp only
  split
  · exact hread.trans (engineStep_keepsGuards P _)
  · exact hread.trans (.of_eq rfl rfl)

/-- Reset apart, only the commands and the two builds write the tables or STATUS. -/
theorem exec_keepsGuards {i : Instr} (hi : i ≠ .reset) {s t : State} (h : exec i s = .next t) : GuardsKept s t := by
  cases i with
  | reset => exact absurd rfl hi
  | initTables => exact .of_next h (initTablesOp_keepsGuards s)
  | scaleImage => exact .of_next h (scaleImageOp_keepsGuards hw s)
  | cstBuild => exact .of_next h (cstBuildOp_keepsGuards s)
  | rotBuild => exact .of_next h (rotBuildOp_keepsGuards s)
  | colStep => exact .of_next h (colStepOp_keepsGuards hw s)
  | scalePix n r =>
    exact .of_next h (.of_eq (scalePixOp_tables hw n.toNat r s) (by rw [scalePixOp_status]))
  | rdStatus form => cases form <;> exact .of_next h (.of_eq rfl rfl)
  | regNonexistent reg form => cases form <;> exact .of_next h (.of_eq rfl rfl)
  | _ => exact .of_next h (.of_eq rfl rfl)

theorem patternInstr_ne_reset (p : Pattern) : patternInstr p ≠ .reset := by
  cases p <;> exact nofun

/-- Only an issue of reset is decoded to reset. -/
theorem decodeFor_ne_reset {z : Sizes} {e : Issue} {i : Instr} (he : (Slot.issue e).isReset = false)
    (h : decodeFor z e = .ok i) : i ≠ .reset := by
  cases e with
  | wr reg value => exact Except.ok.inj h ▸ decodeWr_ne_reset reg value
  | rd reg => exact Except.ok.inj h ▸ decodeRd_ne_reset reg
  | patsel sel => exact Except.ok.inj h ▸ patternInstr_ne_reset _
  | seq op =>
    obtain ⟨-, -, rfl⟩ := decodeFor_seq_eq_ok_iff.mp h
    exact beq_eq_false_iff_ne.mp he

theorem issueOp_keepsGuards {z : Sizes} {e : Issue} (he : (Slot.issue e).isReset = false) {s t : State}
    (h : issueOp z exec e s = .next t) : GuardsKept s t := by
  unfold issueOp at h
  split at h
  case h_1 i hi => exact exec_keepsGuards (decodeFor_ne_reset he hi) h
  case h_2 => exact nomatch h

/-- A step whose turn is no reset clears nothing. -/
theorem step_keepsGuards {s t : State} (hslot : ∀ slot ∈ s.env.inbox.head?, slot.isReset = false)
    (h : step s = .next t) : GuardsKept s t := by
  cases hinbox : s.env.inbox with
  | nil => exact .of_next ((turnOp_nil hinbox).symm.trans h) (engineStep_keepsGuards hw s)
  | cons slot rest =>
    have hreset : slot.isReset = false := hslot slot (by rw [hinbox]; rfl)
    have htaken : GuardsKept s (takeSlot rest s) := .of_eq rfl rfl
    cases slot with
    | issue e => exact htaken.trans (issueOp_keepsGuards hreset ((turnOp_issue hinbox).symm.trans h))
    | poll => exact .of_next ((turnOp_poll hinbox).symm.trans h) (pollOp_keepsGuards hw s)
    | srcStore a p =>
      refine .of_next ((turnOp_srcStore hinbox).symm.trans h) ?_
      rw [srcStoreOp_eq]
      exact .of_eq rfl rfl
    | dstStore a p =>
      refine .of_next ((turnOp_dstStore hinbox).symm.trans h) ?_
      rw [dstStoreOp_eq]
      exact .of_eq rfl rfl
    | dstLoad a =>
      refine .of_next ((turnOp_dstLoad hinbox).symm.trans h) ?_
      rw [dstLoadOp_frame]
      exact .of_eq rfl rfl
    | resetWithPin tblOk => exact absurd hreset.symm Bool.false_ne_true
    | engine =>
      exact htaken.trans (.of_next ((turnOp_engine hinbox).symm.trans h) (engineStep_keepsGuards hw _))

/-- Settles O49, by `step_keepsGuards`. -/
theorem onlyResetClearsTheGuards : Obligations.OnlyResetClearsTheGuards := by
  refine ⟨fun s t hslot hstep => ?_, fun s => ⟨resetOp s, exec_reset s, rfl, rfl, rfl⟩⟩
  obtain ⟨hcst, hrot, hfatal⟩ := step_keepsGuards hslot hstep
  exact ⟨hcst, hrot, hfatal⟩

/-! ### The registers and the running scan (R340, 46_driver.md R290) -/

/-- Registers 1 to 4 with any contents. -/
def setRegs (regs : Regs) (s : State) : State := { s with regs := regs }

section
variable (P : Params) (regs : Regs) (s : State)

theorem rowStartOp_setRegs : rowStartOp (setRegs regs s) = setRegs regs (rowStartOp s) := by
  unfold rowStartOp
  rw [apply_ite (setRegs regs)]
  rfl

theorem scalePixOp_setRegs (n : Nat) (r : Rot) :
    scalePixOp P n r (setRegs regs s) = setRegs regs (scalePixOp P n r s) := by
  unfold scalePixOp
  rw [apply_ite (setRegs regs)]
  rfl

theorem scaleFourOp_setRegs : scaleFourOp P (setRegs regs s) = setRegs regs (scaleFourOp P s) := by
  simp only [scaleFourOp, scalePixOp_setRegs]
  rfl

theorem gatedBlendOp_setRegs : gatedBlendOp P (setRegs regs s) = setRegs regs (gatedBlendOp P s) := by
  unfold gatedBlendOp
  rw [apply_ite (setRegs regs), ← scaleFourOp_setRegs]
  rfl

theorem advanceOp_setRegs : advanceOp (setRegs regs s) = setRegs regs (advanceOp s) := by
  unfold advanceOp
  rw [apply_ite (setRegs regs)]
  rfl

/-- COLSTEP runs on the sampled operands: none of its sub-steps sees the registers. -/
theorem colStepOp_setRegs : colStepOp P (setRegs regs s) = setRegs regs (colStepOp P s) :=
  calc colStepOp P (setRegs regs s)
      = advanceOp (outWrOp (gatedBlendOp P (fillOp (classifyRelayOp P (k4LoadOp (setRegs regs (rowStartOp s))))))) := by
        rw [colStepOp, rowStartOp_setRegs]
    _ = advanceOp (outWrOp (gatedBlendOp P (setRegs regs (beforeGate P s)))) := rfl
    _ = advanceOp (setRegs regs (outWrOp (beforeOutWr P s))) := by
        rw [gatedBlendOp_setRegs]
        rfl
    _ = setRegs regs (colStepOp P s) := advanceOp_setRegs ..

end

/-- Settles O50, by `colStepOp_setRegs`. -/
theorem registerWritesDoNotReachTheScan : Obligations.RegisterWritesDoNotReachTheScan :=
  fun s regs => ⟨colStepOp hw s, exec_colStep s, congrArg _ (colStepOp_setRegs hw regs s)⟩

end Sys2Proof.Machine
end

section
/-! PROOFS. The table words as issues (30_encoding.md R102), the default contents of CSTAB (40_color_metric.md R122,
R123) and of PATTAB (44_pixel_scaler.md R216 to R220, 45_blend_tables_3_to_6.md R242). -/

namespace Sys2Proof.Machine

/-! ### A table word as the next issue -/

/-- A table row's bits that decode are an issue that decodes. -/
theorem exists_tableIssue_of_decodeTableWord {nbits w : Nat} {i : Instr} (h : decodeTableWord nbits w = some i) :
    ∃ e, tableIssue nbits w = some e ∧ decode e = .ok i := by
  unfold decodeTableWord at h
  split at h
  · cases h
  · rename_i e hissue
    split at h
    · rename_i hdecode
      exact ⟨e, hissue, Option.some.inj h ▸ hdecode⟩
    · cases h

theorem withFetchWord_of_tableIssue {nbits w : Nat} {e : Issue} (h : tableIssue nbits w = some e) (s : State) :
    s.withFetchWord nbits w = { s with env := { s.env with inbox := .issue e :: s.env.inbox } } := by
  rw [State.withFetchWord, h]

/-- Settles O7: the word is an issue at the head of the inbox (`withFetchWord_of_tableIssue`), which `step_of_issue`
takes off again. -/
theorem fetchedWordRuns : Obligations.FetchedWordRuns := by
  intro s nbits w i h
  obtain ⟨e, hissue, hdecode⟩ := exists_tableIssue_of_decodeTableWord h
  rw [withFetchWord_of_tableIssue hissue]
  exact step_of_issue rfl hdecode

/-! ### The default contents of CSTAB (R122, R123) -/

/-- A quotient by 1000 that fits 8 bits is stored whole. -/
theorem toNat_ofNat_div_thousand {a : Nat} (h : a < 256000) : (BitVec.ofNat 8 (a / 1000)).toNat = a / 1000 :=
  BitVec.toNat_ofNat .. ▸ Nat.mod_eq_of_lt (by omega)

section

variable {r g b : Nat} (hr : r < 256) (hg : g < 256) (hb : b < 256)
include hr hg hb

/-- The luma of R122 fits its channel: its coefficients sum to 1000. -/
theorem toNat_defaultLuma :
    (BitVec.ofNat 8 ((299 * r + 587 * g + 114 * b) / 1000)).toNat = (299 * r + 587 * g + 114 * b) / 1000 :=
  toNat_ofNat_div_thousand (by omega)

/-- A chroma of R122 fits its channel, and its natural subtractions are exact: its positive and its negative
coefficients each sum to 500. -/
theorem toNat_defaultChromaBlue :
    ((BitVec.ofNat 8 ((128000 + 500 * b - 169 * r - 331 * g) / 1000)).toNat : Int) =
      (128000 - 169 * r - 331 * g + 500 * b) / 1000 := by
  rw [toNat_ofNat_div_thousand (by omega)]
  omega

theorem toNat_defaultChromaRed :
    ((BitVec.ofNat 8 ((128000 + 500 * r - 419 * g - 81 * b) / 1000)).toNat : Int) =
      (128000 + 500 * r - 419 * g - 81 * b) / 1000 := by
  rw [toNat_ofNat_div_thousand (by omega)]
  omega

end

/-- The default entry of a grey: the luma is the grey, the chromas are neutral (R123). -/
theorem defaultCstab_of_grey {v : Rgb} (hrg : (v.extractLsb' 16 8).toNat = (v.extractLsb' 8 8).toNat)
    (hgb : (v.extractLsb' 8 8).toNat = (v.extractLsb' 0 8).toNat) :
    defaultCstab v = packYcc (v.extractLsb' 0 8) 128#8 128#8 := by
  unfold defaultCstab
  rw [hrg, hgb]
  generalize v.extractLsb' 0 8 = grey
  have hgrey : grey.toNat < 256 := grey.isLt
  have hluma : (299 * grey.toNat + 587 * grey.toNat + 114 * grey.toNat) / 1000 = grey.toNat := by omega
  have hblue : (128000 + 500 * grey.toNat - 169 * grey.toNat - 331 * grey.toNat) / 1000 = 128 := by omega
  have hred : (128000 + 500 * grey.toNat - 419 * grey.toNat - 81 * grey.toNat) / 1000 = 128 := by omega
  simp only [hluma, hblue, hred, BitVec.ofNat_toNat, BitVec.setWidth_eq]

/-- Settles O13: each member of the entry by its own formula (`toNat_defaultLuma` and the two chromas), the greys by
`defaultCstab_of_grey`. -/
theorem defaultTableContents : Obligations.DefaultTableContents := by
  intro s v hbuilt r g b t
  have ht : t = defaultCstab v := cstRead_of_built hw hbuilt v
  have hr : (v.extractLsb' 16 8).toNat < 256 := (v.extractLsb' 16 8).isLt
  have hg : (v.extractLsb' 8 8).toNat < 256 := (v.extractLsb' 8 8).isLt
  have hb : (v.extractLsb' 0 8).toNat < 256 := (v.extractLsb' 0 8).isLt
  rw [ht]
  refine ⟨?luma, ?chromaBlue, ?chromaRed, by omega, by omega, fun hrg hgb => ?grey⟩
  case luma =>
    rw [defaultCstab, lumaOf_packYcc, toNat_defaultLuma hr hg hb]
    omega
  case chromaBlue =>
    rw [defaultCstab, chromaBlueOf_packYcc]
    exact toNat_defaultChromaBlue hr hg hb
  case chromaRed =>
    rw [defaultCstab, chromaRedOf_packYcc]
    exact toNat_defaultChromaRed hr hg hb
  case grey => exact defaultCstab_of_grey (Int.ofNat.inj hrg) (Int.ofNat.inj hgb)

/-! ### A pattern by its logical sub-cells (R205) -/

/-- The weight a pattern list gives the logical sub-cell (i, j), if an entry names it. -/
def weightAt (l : List Entry) (i j : Nat) : Option Weight :=
  (l.find? fun e => e.row == i && e.col == j).map Entry.weight

theorem weightAt_eq_some {l : List Entry} {i j : Nat} {w : Weight} (h : weightAt l i j = some w) :
    (⟨i, j, w⟩ : Entry) ∈ l := by
  obtain ⟨e, hfind, rfl⟩ := Option.map_eq_some_iff.mp h
  have hnamed := List.find?_some hfind
  obtain ⟨rfl, rfl⟩ : e.row = i ∧ e.col = j := by simpa using hnamed
  exact List.mem_of_find?_eq_some hfind

theorem weightAt_eq_none {l : List Entry} {i j : Nat} (h : weightAt l i j = none) :
    ∀ e ∈ l, (e.row, e.col) ≠ (i, j) := by
  simpa [weightAt] using h

section

variable {P : Params} {s : State} {n r : Nat} {p : Pattern} (hP : legalParams P = true)
  (hbuilt : s.tables.rot = .built) (hn : P.minScale ≤ n ∧ n ≤ P.maxScale) (hr : r < 4)
include hP hbuilt hn hr

/-- A pattern on a logical sub-cell of its grid, at the place the rotation step gives it: the weight the list gives
the sub-cell, or what it held. -/
theorem cell_applyPattern_rotN {i j : Nat} (hi : i < n) (hj : j < n) :
    (applyPattern P n r p s).oblk.cell (rotN n r (i, j)).1 (rotN n r (i, j)).2 =
      (weightAt (P.pattab n p) i j).elim (s.oblk.cell (rotN n r (i, j)).1 (rotN n r (i, j)).2)
        (weighted s.px (s.oblk.cell (rotN n r (i, j)).1 (rotN n r (i, j)).2)) := by
  obtain ⟨hsizes, htable⟩ := (params_legal_iff P).mp hP
  cases hweight : weightAt (P.pattab n p) i j with
  | some w => exact cell_applyPattern_named hP hbuilt hn hr (weightAt_eq_some hweight) rfl
  | none =>
    have hplace := rotN_lt r (p := (i, j)) ⟨hi, hj⟩
    have hn8 := (scale_range hsizes hn).2
    refine cell_applyPattern_unnamed hP hbuilt hn hr (by omega) (by omega) fun e he heq => ?_
    have hgrid := entry_inGrid (listLegal_of_pattabLegal htable hn p) he
    exact weightAt_eq_none hweight e he (rotN_inj r hgrid ⟨hi, hj⟩ heq)

/-- A pattern leaves what lies outside the grid of its scale (R213). -/
theorem cell_applyPattern_outside {i j : Nat} (hi : i < 8) (hj : j < 8) (hout : n ≤ i ∨ n ≤ j) :
    (applyPattern P n r p s).oblk.cell i j = s.oblk.cell i j := by
  obtain ⟨-, htable⟩ := (params_legal_iff P).mp hP
  refine cell_applyPattern_unnamed hP hbuilt hn hr hi hj fun e he heq => ?_
  have hin := rotN_lt r (p := (e.row, e.col)) (entry_inGrid (listLegal_of_pattabLegal htable hn p) he)
  rw [heq] at hin
  omega

end

/-! ### The five patterns at scale 2 (R216 to R220) -/

theorem exec_patternInstr (p : Pattern) (s : State) : exec (patternInstr p) s = .next (patternOp hw p s) := by
  cases p <;> rfl

/-- Settles O26: the four sub-cells by `cell_applyPattern_rotN`, where the weights are those `patterns2` gives; what
lies outside by `cell_applyPattern_outside`. -/
theorem scaleTwoPatterns : Obligations.ScaleTwoPatterns := by
  intro s p hbuilt hscale
  have hop : patternOp hw p s = applyPattern hw 2 s.sig.rot.toNat p s := by
    rw [patternOp, hscale]
    rfl
  have hn : hw.minScale ≤ 2 ∧ 2 ≤ hw.maxScale := by decide
  have hr : s.sig.rot.toNat < 4 := s.sig.rot.isLt
  have hcell (i j : Nat) (hi : i < 2) (hj : j < 2) := cell_applyPattern_rotN (p := p) legal_hw hbuilt hn hr hi hj
  refine ⟨(applyPattern hw 2 s.sig.rot.toNat p s).oblk, (exec_patternInstr p s).trans (congrArg _ hop),
    ?topLeft, ?topRight, ?bottomLeft, ?bottomRight,
    fun i j hi hj => cell_applyPattern_outside legal_hw hbuilt hn hr hi hj⟩
  case topLeft => exact (hcell 0 0 (by decide) (by decide)).trans (by cases p <;> rfl)
  case topRight => exact (hcell 0 1 (by decide) (by decide)).trans (by cases p <;> rfl)
  case bottomLeft => exact (hcell 1 0 (by decide) (by decide)).trans (by cases p <;> rfl)
  case bottomRight => exact (hcell 1 1 (by decide) (by decide)).trans (by cases p <;> rfl)

/-! ### The pattern tables of this hardware (R242) -/

/-- Settles O28: legality is `pattabLegal_hw`; the mirror images are computed from the tables of the five scales. -/
theorem patternTablesAreLegal : Obligations.PatternTablesAreLegal := by
  refine ⟨pattabLegal_hw, ?mirror⟩
  case mirror => decide

end Sys2Proof.Machine
end
